-- ==== Sys2Proof/Word.lean ====
section
/-! DEFINITION. The word types of SMCORE (00_scope R6, R9): bytes, 16-bit halves and the 32-bit words of the data path.
Every value is unsigned (R9). -/

namespace Sys2Proof

/-- A byte: 8 bits, bit 0 the least significant (R9). -/
abbrev Byte := BitVec 8

/-- A 16-bit value: checksums, date fields, counters (R6, R15). -/
abbrev Half := BitVec 16

/-- A 32-bit word: the data path, every register and every command word (R6, R22, R100). -/
abbrev Word := BitVec 32

end Sys2Proof
end

