-- ==== Sys2Proof/Syntax.lean ====
section
/-! DEFINITION. The commands of SMCORE: one constructor per row of spec/opcode_table.json, its operands at the widths
30_encoding R107 gives them. -/

namespace Sys2Proof

/-- A command (30_encoding R108). Operands are unsigned and taken from the word unchanged (R107). -/
inductive Instr where
  /-- NOP (44_control R200). -/
  | nop
  /-- CRC_INIT (40_checksum R124). -/
  | crcInit
  /-- CRC_BYTE imm8 (40_checksum R125). -/
  | crcByte (imm8 : Byte)
  /-- CRC_BUF start, len (40_checksum R126): START is a FRAME_BUF offset 0..511, LEN a byte count 0..1023. -/
  | crcBuf (start : BitVec 9) (len : BitVec 10)
  /-- MFR_DECODE imm16 (41_manufacturer R141). -/
  | mfrDecode (imm16 : Half)
  /-- DATE_FULL imm16 or DATE_FULL imm16, R (42_date R155): `r` is the flag that also loads DATE_REF. -/
  | dateFull (imm16 : Half) (r : Bool)
  /-- DATE_REL imm16 (42_date R156). -/
  | dateRel (imm16 : Half)
  /-- HDR_PARSE (43_frame R180). -/
  | hdrParse
  /-- SEGMENT (43_frame R181). -/
  | segment
  /-- APP_DECODE (43_frame R182). -/
  | appDecode
  /-- FRAME_DECODE (43_frame R183). -/
  | frameDecode
deriving DecidableEq, Repr

end Sys2Proof
end

