-- ==== Sys2Proof/WellFormed.lean ====
section
/-! DEFINITION. Which written commands are well formed (30_encoding R112). The operand widths of R107 are in the types of
`Instr`, so every `Instr` is well formed; what can be ill formed is an assembler line, whose operands are plain numbers: one
that does not fit its field is an assembly error, not an encoding. -/

namespace Sys2Proof

/-- One line of assembler (30_encoding R112): a mnemonic with its operands as numbers. `dateFull imm16 r` is
`DATE_FULL imm16` or, with `r`, `DATE_FULL imm16, R`. -/
inductive AsmLine where
  | nop
  | crcInit
  | crcByte (imm8 : Nat)
  | crcBuf (start len : Nat)
  | mfrDecode (imm16 : Nat)
  | dateFull (imm16 : Nat) (r : Bool)
  | dateRel (imm16 : Nat)
  | hdrParse
  | segment
  | appDecode
  | frameDecode
deriving DecidableEq, Repr

/-- No operand exceeds its field: IMM8 at most 255, IMM16 at most 65535, START at most 511, LEN at most 1023 (R112). That
START + LEN may exceed 512 is no assembly error (R111). -/
def AsmLine.wellFormed : AsmLine → Bool
  | .nop => true
  | .crcInit => true
  | .crcByte imm8 => imm8 ≤ 255
  | .crcBuf start len => start ≤ 511 && len ≤ 1023
  | .mfrDecode imm16 => imm16 ≤ 65535
  | .dateFull imm16 _ => imm16 ≤ 65535
  | .dateRel imm16 => imm16 ≤ 65535
  | .hdrParse => true
  | .segment => true
  | .appDecode => true
  | .frameDecode => true

/-- The command a line stands for; none for an assembly error (R112). -/
def AsmLine.instr? (l : AsmLine) : Option Instr :=
  if l.wellFormed then
    match l with
    | .nop => some .nop
    | .crcInit => some .crcInit
    | .crcByte imm8 => some (.crcByte (BitVec.ofNat 8 imm8))
    | .crcBuf start len => some (.crcBuf (BitVec.ofNat 9 start) (BitVec.ofNat 10 len))
    | .mfrDecode imm16 => some (.mfrDecode (BitVec.ofNat 16 imm16))
    | .dateFull imm16 r => some (.dateFull (BitVec.ofNat 16 imm16) r)
    | .dateRel imm16 => some (.dateRel (BitVec.ofNat 16 imm16))
    | .hdrParse => some .hdrParse
    | .segment => some .segment
    | .appDecode => some .appDecode
    | .frameDecode => some .frameDecode
  else none

end Sys2Proof
end

