-- ==== Sys2Proof/Decode.lean ====
section
/-! DEFINITION. Decoding of command words (30_encoding R101-R111), and the encoder written from the same tables (R102-R106,
R114). -/

namespace Sys2Proof

/-- Why a word is no command (30_encoding R110). -/
inductive Illegal where
  /-- (a) its OP is not in the opcode map. -/
  | unassignedOp
  /-- (b) its OP is in the map but a bit its format reserves is 1. -/
  | reservedBitSet
deriving DecidableEq, Repr

/-- One row of the opcode map (30_encoding R108): `w` is this row's command when `w &&& mask = pattern`; `command` takes the
operands from the word (R107). -/
structure OpcodeRow where
  mnemonic : String
  pattern : Word
  mask : Word
  command : Word → Instr

/-- OP, bits 7:0 (R101). -/
def fieldOp (w : Word) : Byte := w.extractLsb' 0 8

/-- IMM8, bits 15:8 (R103, R107). -/
def fieldImm8 (w : Word) : Byte := w.extractLsb' 8 8

/-- IMM16, bits 23:8 (R104, R105, R107). -/
def fieldImm16 (w : Word) : Half := w.extractLsb' 8 16

/-- R, bit 24 (R105, R107). -/
def fieldR (w : Word) : Bool := w.getLsbD 24

/-- START, bits 16:8 (R106, R107). -/
def fieldStart (w : Word) : BitVec 9 := w.extractLsb' 8 9

/-- LEN, bits 26:17 (R106, R107). -/
def fieldLen (w : Word) : BitVec 10 := w.extractLsb' 17 10

/-- The opcode map (30_encoding R108). -/
def opcodeMap : List OpcodeRow :=
  [ ⟨"NOP", 0x00000000#32, 0xFFFFFFFF#32, fun _ => .nop⟩,
    ⟨"CRC_INIT", 0x00000001#32, 0xFFFFFFFF#32, fun _ => .crcInit⟩,
    ⟨"CRC_BYTE", 0x00000002#32, 0xFFFF00FF#32, fun w => .crcByte (fieldImm8 w)⟩,
    ⟨"CRC_BUF", 0x00000003#32, 0xF80000FF#32, fun w => .crcBuf (fieldStart w) (fieldLen w)⟩,
    ⟨"MFR_DECODE", 0x00000010#32, 0xFF0000FF#32, fun w => .mfrDecode (fieldImm16 w)⟩,
    ⟨"DATE_FULL", 0x00000020#32, 0xFE0000FF#32, fun w => .dateFull (fieldImm16 w) (fieldR w)⟩,
    ⟨"DATE_REL", 0x00000021#32, 0xFF0000FF#32, fun w => .dateRel (fieldImm16 w)⟩,
    ⟨"HDR_PARSE", 0x00000030#32, 0xFFFFFFFF#32, fun _ => .hdrParse⟩,
    ⟨"SEGMENT", 0x00000031#32, 0xFFFFFFFF#32, fun _ => .segment⟩,
    ⟨"APP_DECODE", 0x00000032#32, 0xFFFFFFFF#32, fun _ => .appDecode⟩,
    ⟨"FRAME_DECODE", 0x0000003F#32, 0xFFFFFFFF#32, fun _ => .frameDecode⟩ ]

/-- `(w & mask) == match` (30_encoding R109). -/
def OpcodeRow.matchesWord (r : OpcodeRow) (w : Word) : Bool := w &&& r.mask == r.pattern

/-- OP is that of a row of the map: what tells R110 (b) from R110 (a). -/
def opAssigned (w : Word) : Bool := opcodeMap.any fun r => fieldOp r.pattern == fieldOp w

/-- Decoding (30_encoding R109): the row that matches, or why none does (R110). Total on every word. -/
def decode (w : Word) : Except Illegal Instr :=
  match opcodeMap.find? (fun r => r.matchesWord w) with
  | some r => .ok (r.command w)
  | none => .error (if opAssigned w then .reservedBitSet else .unassignedOp)

/-- `v` placed with its bit 0 at bit `k` of a word. -/
def operandAt {n : Nat} (v : BitVec n) (k : Nat) : Word := v.setWidth 32 <<< k

/-- The word of a command (30_encoding R114). -/
def encode : Instr → Word
  | .nop => 0x00#32
  | .crcInit => 0x01#32
  | .crcByte imm8 => 0x02#32 ||| operandAt imm8 8
  | .crcBuf start len => 0x03#32 ||| operandAt start 8 ||| operandAt len 17
  | .mfrDecode imm16 => 0x10#32 ||| operandAt imm16 8
  | .dateFull imm16 r => 0x20#32 ||| operandAt imm16 8 ||| operandAt (BitVec.ofBool r) 24
  | .dateRel imm16 => 0x21#32 ||| operandAt imm16 8
  | .hdrParse => 0x30#32
  | .segment => 0x31#32
  | .appDecode => 0x32#32
  | .frameDecode => 0x3F#32

/-- The host's question: what the decoder reads from the `nbits` low bits `w` of a command word, the bits above them 0. A
command is one 32-bit word delivered whole by the write to CMD (30_encoding R100), so there are no later words to lay out. -/
def decodeTableWord (nbits w : Nat) : Option Instr :=
  match decode (BitVec.ofNat 32 (w % 2 ^ nbits)) with
  | .ok i => some i
  | .error _ => none

end Sys2Proof
end

