-- ==== Sys2Proof/Machine/State.lean ====
section
/-! DEFINITION. The state of SMCORE (10_state): every register of R22 field by field, the two buffers, the hidden state of
R58, and the model's own fields for the agents outside the Engine. Reserved bits are no state: they read 0 and ignore writes
(R23; assumption log 9). -/

namespace Sys2Proof.Machine

open Sys2Proof

/-- What stops the machine: nothing does. SMCORE has no trap (60_exceptions R212, R222), every command completes with a code,
and a bus ERROR is an answer on the bus that changes no state (R219); so no one raises a fault, which is safe: the spec has
none (assumption log 11). -/
inductive Fault where
deriving DecidableEq, Repr

/-- What the model gives no meaning to. -/
inductive Refusal where
  /-- Raised by an arm of exec whose instruction has no meaning yet; here by none. Safe: the machine stops where the hardware
  goes on. -/
  | notModelled (mnemonic : String)
deriving DecidableEq, Repr

/-- The outcome codes of STATUS.ERR (60_exceptions R210). Codes 5-15 are never written (93 I11). -/
inductive ErrCode where
  /-- 0 NONE: success. -/
  | success
  /-- 1 ILLEGAL (R211). -/
  | illegal
  /-- 2 RANGE (R213). -/
  | range
  /-- 3 FRAME (R214). -/
  | frame
  /-- 4 PAYLOAD (R215). -/
  | payload
deriving DecidableEq, Repr

/-- CTRL (10_state R24): bit 0 IE, bit 1 ROLLFIX, bit 2 CRCORD. -/
structure Ctrl where
  ie : Bool
  rollfix : Bool
  crcord : Bool
deriving DecidableEq, Repr

/-- STATUS but for BUSY (10_state R25): bit 1 DONE, bits 7:4 ERR, bits 15:8 LASTOP. Bit 0 is State.busy. -/
structure Status where
  done : Bool
  err : ErrCode
  lastop : Byte
deriving DecidableEq, Repr

/-- Three manufacturer characters, the layout of MFR_OUT and HDR_MFRC (10_state R33, R40): C0 bits 7:0 (emitted first),
C1 bits 15:8, C2 bits 23:16. -/
structure MfrChars where
  c0 : Byte
  c1 : Byte
  c2 : Byte
deriving DecidableEq, Repr

/-- A date record (10_state R34): YEAR bits 15:0, MONTH bits 23:16, DAY bits 28:24, V bit 31. -/
structure DateRecord where
  year : Half
  month : Byte
  day : BitVec 5
  v : Bool
deriving DecidableEq, Repr

/-- A stored and a calculated checksum, the layout of HDR_CRC and BLK_CRC[i] (10_state R42, R48): STORED bits 15:0, CALC bits
31:16. -/
structure CrcPair where
  stored : Half
  calculated : Half
deriving DecidableEq, Repr

/-- The Header Parser registers (10_state R37-R42). -/
structure HdrRegs where
  /-- HDR_STAT.VALID and CRC_OK (R37). -/
  valid : Bool
  crcOk : Bool
  /-- HDR_LCVT: L, C, VER, TYPE (R38). -/
  l : Byte
  c : Byte
  ver : Byte
  devType : Byte
  /-- HDR_MFR.M (R39). -/
  mfr : Half
  /-- HDR_MFRC (R40). -/
  mfrc : MfrChars
  /-- HDR_ADDR (R41). -/
  addr : Word
  /-- HDR_CRC (R42). -/
  crc : CrcPair
deriving DecidableEq, Repr

/-- BLK_INFO[i] (10_state R47): OFF bits 8:0, SIZE bits 20:16, OK bit 24, PRESENT bit 25. -/
structure BlkInfo where
  off : BitVec 9
  size : BitVec 5
  ok : Bool
  present : Bool
deriving DecidableEq, Repr

/-- The Block Segmenter registers (10_state R43-R48). -/
structure SegRegs where
  /-- SEG_STAT: NBLK, TRUNC, LSHORT, ALL_OK, BLK_OK (R43). -/
  nblk : BitVec 5
  trunc : Bool
  lshort : Bool
  allOk : Bool
  blkOk : Half
  /-- SEG_N.N (R44). -/
  n : Byte
  /-- SEG_CI: CI, CI_P, PAY_LEN (R45). -/
  ci : Byte
  ciP : Bool
  payLen : Byte
  /-- SEG_TAIL: END, TAIL_LEN (R46). -/
  endOff : BitVec 10
  tailLen : BitVec 10
  /-- BLK_INFO[0..15] (R47). -/
  blkInfo : Vector BlkInfo 16
  /-- BLK_CRC[0..15] (R48). -/
  blkCrc : Vector CrcPair 16
deriving DecidableEq, Repr

/-- The Application Payload registers (10_state R49-R55). -/
structure RdRegs where
  /-- RD_STAT: VALID, STATUS (R49). -/
  valid : Bool
  status : Byte
  /-- RD_LAST: LDATE_RAW, LVALUE (R50). -/
  ldateRaw : Half
  lvalue : Half
  /-- RD_CUR: CDATE_RAW, CVALUE (R51). -/
  cdateRaw : Half
  cvalue : Half
  /-- RD_TEMP: T1, T2 (R52). -/
  t1 : Half
  t2 : Half
  /-- RD_LDATE (R53). -/
  ldate : DateRecord
  /-- RD_CDATE (R54). -/
  cdate : DateRecord
  /-- RD_TAIL.TLEN (R55). -/
  tlen : Byte
deriving DecidableEq, Repr

/-- Every register of the map, by name (10_state R22). -/
inductive Reg where
  | ctrl | status | cmd | frameLen | crcPoly | crcInit | crcXorout | crcAcc | crcOut | mfrOut | dateRef | dateOut
  | hdrStat | hdrLcvt | hdrMfr | hdrMfrc | hdrAddr | hdrCrc
  | segStat | segN | segCi | segTail
  | rdStat | rdLast | rdCur | rdTemp | rdLdate | rdCdate | rdTail
  | blkInfo (i : Fin 16) | blkCrc (i : Fin 16)
deriving DecidableEq, Repr

/-- The size of a bus access (20_memory R71). -/
inductive AccessSize where
  | byte | half | word
deriving DecidableEq, Repr

/-- A bus access at a byte offset of the window (20_memory R70, R71). A write narrower than 4 bytes carries its value in the
low bits of `data` (assumption log 13). -/
inductive Access where
  | read (off : BitVec 12) (size : AccessSize)
  | write (off : BitVec 12) (size : AccessSize) (data : Word)
deriving DecidableEq, Repr

/-- What comes to SMCORE from outside: a bus access of the Host, or the platform's reset (70 R240, R244, R246). -/
inductive Input where
  | access (a : Access)
  | reset
deriving DecidableEq, Repr

/-- The response that completes an access (20_memory R71): a read's OKAY with its data, a write's OKAY, or ERROR, which gives
no data. -/
inductive Answer where
  | data (v : Word)
  | okay
  | error
deriving DecidableEq, Repr

/-- The bytes of the two buffers, as (window offset, byte) cells (assumption log 8). -/
abbrev Memory := List Host.Cell

/-- An offset of FRAME_BUF (10_state R56). -/
abbrev inFrameBuf (a : Nat) : Prop := 0x400 ≤ a ∧ a < 0x600

/-- An offset of PAYLOAD_BUF (10_state R57). -/
abbrev inPayloadBuf (a : Nat) : Prop := 0x600 ≤ a ∧ a < 0x700

/-- What an offset without a cell holds: a PAYLOAD_BUF byte its reset contents 0x00 (10_state R57); a FRAME_BUF byte nothing,
because it has not been written since reset (R56). -/
def Memory.unlisted (a : Nat) : Option Byte := if inPayloadBuf a then some 0 else none

/-- A cell that may stand in memory: at a buffer's offset, and not what the offset holds without a cell. -/
def Memory.cellOk (c : Host.Cell) : Bool :=
  (decide (inFrameBuf c.1) || decide (inPayloadBuf c.1)) && Memory.unlisted c.1 != some c.2

/-- The canonical form: offsets strictly rising, every cell allowed. -/
def Memory.wf (m : Memory) : Bool :=
  decide (m.Pairwise fun c d => c.1 < d.1) && m.all Memory.cellOk

/-- The state of SMCORE (10_state R20) and, last, the model's own fields. -/
structure State where
  /-- CTRL (R24). -/
  ctrl : Ctrl
  /-- STATUS but for BUSY (R25). -/
  status : Status
  /-- BUSY, the hidden busy latch, also STATUS bit 0 (R25, R58). -/
  busy : Bool
  /-- LATCH, the hidden copy of the issued command word (R58). -/
  latch : Word
  /-- CMD (R26). -/
  cmd : Word
  /-- FRAME_LEN.LEN (R28). -/
  frameLen : BitVec 10
  /-- CRC_POLY.POLY (R29). -/
  crcPoly : Half
  /-- CRC_INIT.INIT (R30). -/
  crcInit : Half
  /-- CRC_XOROUT.XOROUT (R31). -/
  crcXorout : Half
  /-- CRC_ACC.ACC (R27). -/
  crcAcc : Half
  /-- MFR_OUT (R33). -/
  mfrOut : MfrChars
  /-- DATE_REF, the year-inference state (R35). -/
  dateRef : DateRecord
  /-- DATE_OUT (R36). -/
  dateOut : DateRecord
  /-- HDR_STAT to HDR_CRC (R37-R42). -/
  hdr : HdrRegs
  /-- SEG_STAT to SEG_TAIL, BLK_INFO, BLK_CRC (R43-R48). -/
  seg : SegRegs
  /-- RD_STAT to RD_TAIL (R49-R55). -/
  rd : RdRegs
  /-- FRAME_BUF and PAYLOAD_BUF (R56, R57). -/
  mem : Memory
  /-- The model's own: which reset the draws of unwritten FRAME_BUF bytes date from (assumption log 4). -/
  drawEpoch : Nat
  /-- The model's own: accesses and resets presented and not yet performed, oldest first (R247; assumption log 1). -/
  inputs : List Input
  /-- The model's own: the port's responses so far, oldest first (20_memory R71; assumption log 5). -/
  answers : List Answer
deriving DecidableEq, Repr

/-- The record 0x0000_0000 (10_state R35, R36, R53, R54). -/
def DateRecord.zero : DateRecord := ⟨0, 0, 0, false⟩

/-- The value 0x0000_0000 of MFR_OUT and HDR_MFRC (10_state R33, R40). -/
def MfrChars.zero : MfrChars := ⟨0, 0, 0⟩

/-- The value 0x0000_0000 of HDR_CRC and BLK_CRC[i] (10_state R42, R48). -/
def CrcPair.zero : CrcPair := ⟨0, 0⟩

/-- The value 0x0000_0000 of BLK_INFO[i] (10_state R47). -/
def BlkInfo.zero : BlkInfo := ⟨0, 0, false, false⟩

/-- Every HDR_ register 0: at reset and after FRAME (70 R241, 43_frame R171). -/
def HdrRegs.zero : HdrRegs := ⟨false, false, 0, 0, 0, 0, 0, .zero, 0, .zero⟩

/-- Every SEG_ and BLK_ register 0: at reset and after FRAME (70 R241, 43_frame R175). -/
def SegRegs.zero : SegRegs :=
  { nblk := 0, trunc := false, lshort := false, allOk := false, blkOk := 0, n := 0, ci := 0, ciP := false, payLen := 0,
    endOff := 0, tailLen := 0, blkInfo := Vector.replicate 16 .zero, blkCrc := Vector.replicate 16 .zero }

/-- Every RD_ register 0: at reset and after PAYLOAD (70 R241, 43_frame R178). -/
def RdRegs.zero : RdRegs := ⟨false, 0, 0, 0, 0, 0, 0, 0, .zero, .zero, 0⟩

/-- The reset state (70_reset_and_hazards R241). The last three fields are the model's own (DESIGN CHOICE, assumption log 1,
4, 5). -/
def State.reset : State :=
  { ctrl := ⟨false, true, true⟩, status := ⟨false, .success, 0⟩, busy := false, latch := 0, cmd := 0, frameLen := 0,
    crcPoly := 0x3D65, crcInit := 0xFFFF, crcXorout := 0xFFFF, crcAcc := 0xFFFF, mfrOut := .zero, dateRef := .zero,
    dateOut := .zero, hdr := .zero, seg := .zero, rd := .zero, mem := [], drawEpoch := 0, inputs := [], answers := [] }

end Sys2Proof.Machine
end

