-- ==== Sys2Proof/Config.lean ====
section
/-! DEFINITION. What the spec leaves open to an implementation or a platform: free values, each without a body, so that no
proof can use a value of it. The fixed sizes of 00_scope R6 stand as the literals of the spec's own pseudocode in the
definitions that use them. -/

namespace Sys2Proof

/-- The draw a FRAME_BUF byte holds while the Host has not written it since reset (10_state R56, 93 I2): one value per byte,
fixed until the byte is written. First argument: which reset it dates from (State.drawEpoch); second: the byte's index.
Assumption log 3 and 4. -/
opaque Config.frameDraw : Nat → Nat → Byte

/-- `CMD_LATENCY` (00_scope R7, 70 R255) as far as it can be seen: where a 4-byte STATUS read or a reset is waiting while a
command is busy, whether the Engine's step comes first. It may differ per command and per operand (R255), and the operands of
a command are its word's fields and the registers and buffers its rule names (30_encoding R107); so its argument is the whole
state: the latched word, every register and buffer byte, and the answers given so far, which tell one poll from the next.
Assumption log 2. -/
opaque Config.engineFirst : Machine.State → Bool

/-- Which 4 KiB page of the Host's address map holds the window (20_memory R72, 93 I15). Assumption log 6. -/
opaque Config.smcoreBaseIndex : Nat

/-- `SMCORE_BASE`, a multiple of 0x1000 set by the platform (20_memory R72). -/
def Config.smcoreBase : Nat := 0x1000 * Config.smcoreBaseIndex

end Sys2Proof
end

