-- ==== Sys2Proof/Machine/Ops.lean ====
section
/-! DEFINITION. The named operations over memory, registers and outcomes: reading and writing bytes, issuing a command,
completing one, and raising an error. -/

namespace Sys2Proof.Machine

open Sys2Proof

/-! ### Memory cells -/

/-- The byte of the cell at offset `a`, if there is one. -/
def Memory.lookup : Memory → Nat → Option Byte
  | [], _ => none
  | c :: m, a => if c.1 = a then some c.2 else Memory.lookup m a

/-- Put a cell at its place in the rising order, over the old cell of its offset. -/
def Memory.insert (a : Nat) (b : Byte) : Memory → Memory
  | [] => [(a, b)]
  | c :: m =>
    if a < c.1 then (a, b) :: c :: m
    else if a = c.1 then (a, b) :: m
    else c :: Memory.insert a b m

/-- Take away the cell of an offset. -/
def Memory.erase (a : Nat) (m : Memory) : Memory := m.filter fun c => c.1 != a

/-- Store a byte at a buffer offset, keeping the canonical form: a byte equal to what the offset holds without a cell takes the
cell away. An offset outside the buffers holds nothing (20_memory R70, R76). -/
def Memory.store (m : Memory) (a : Nat) (b : Byte) : Memory :=
  if inFrameBuf a ∨ inPayloadBuf a then
    if Memory.unlisted a = some b then Memory.erase a m else Memory.insert a b m
  else m

/-- Store bytes at ascending offsets from `a` (20_memory R78, R80). -/
def Memory.storeBytes (m : Memory) (a : Nat) : List Byte → Memory
  | [] => m
  | b :: bs => Memory.storeBytes (Memory.store m a b) (a + 1) bs

/-- All 256 bytes of PAYLOAD_BUF to 0x00 (43_frame R175). -/
def Memory.clearPayload (m : Memory) : Memory := m.filter fun c => !decide (inPayloadBuf c.1)

/-! ### Bytes of a state -/

/-- What an offset without a cell reads as: 0x00 in PAYLOAD_BUF (10_state R57); in FRAME_BUF the draw of the byte (R56, 93 I2;
assumption log 3). -/
def unlistedByte (epoch a : Nat) : Byte :=
  match Memory.unlisted a with
  | some b => b
  | none => Config.frameDraw epoch (a - 0x400)

/-- The byte at a window offset of the buffers: one read for the Host and the Engine alike (00_scope R11). -/
def State.readByte (s : State) (a : Nat) : Byte :=
  match Memory.lookup s.mem a with
  | some b => b
  | none => unlistedByte s.drawEpoch a

/-- FB[i] (00_scope R11). -/
def State.fb (s : State) (i : Nat) : Byte := s.readByte (0x400 + i)

/-- PB[i] (00_scope R11). -/
def State.pb (s : State) (i : Nat) : Byte := s.readByte (0x600 + i)

/-- `n` bytes from window offset `a` on. -/
def State.readBytes (s : State) (a : Nat) : Nat → List Byte
  | 0 => []
  | n + 1 => s.readByte a :: State.readBytes s (a + 1) n

/-! ### Byte order and places in words -/

/-- Bytes assembled into a word, the first the least significant (00_scope R10, 20_memory R79, R80). -/
def leWord : List Byte → Word
  | [] => 0
  | b :: bs => b.setWidth 32 ||| leWord bs <<< 8

/-- The `n` low bytes of a word, the least significant first (20_memory R78). -/
def leBytes : Nat → Word → List Byte
  | 0, _ => []
  | n + 1, v => v.setWidth 8 :: leBytes n (v >>> 8)

/-- Two bytes as a little-endian 16-bit value: `b0 | (b1 << 8)` (00_scope R10). -/
def le16 (b0 b1 : Byte) : Half := b0.setWidth 16 ||| b1.setWidth 16 <<< 8

/-- Two bytes as a big-endian 16-bit value: `(b0 << 8) | b1` (00_scope R10). -/
def be16 (b0 b1 : Byte) : Half := b0.setWidth 16 <<< 8 ||| b1.setWidth 16

/-- A field placed with its bit 0 at bit `k` of a register's word; every bit no field takes is 0 (10_state R23). -/
def place {n : Nat} (v : BitVec n) (k : Nat) : Word := v.setWidth 32 <<< k

/-- A flag placed at bit `k` of a register's word. -/
def placeBit (b : Bool) (k : Nat) : Word := place (BitVec.ofBool b) k

/-! ### Register updates -/

/-- ACC (10_state R27). -/
def State.setAcc (s : State) (a : Half) : State := { s with crcAcc := a }

/-- MFR_OUT (10_state R33). -/
def State.setMfrOut (s : State) (m : MfrChars) : State := { s with mfrOut := m }

/-- DATE_OUT (10_state R36). -/
def State.setDateOut (s : State) (d : DateRecord) : State := { s with dateOut := d }

/-- DATE_REF (10_state R35). -/
def State.setDateRef (s : State) (d : DateRecord) : State := { s with dateRef := d }

/-- The header registers (10_state R37-R42). -/
def State.setHdr (s : State) (h : HdrRegs) : State := { s with hdr := h }

/-- The segmenter registers (10_state R43-R48). -/
def State.setSeg (s : State) (g : SegRegs) : State := { s with seg := g }

/-- The reading registers (10_state R49-R55). -/
def State.setRd (s : State) (r : RdRegs) : State := { s with rd := r }

/-- The buffers' bytes. -/
def State.setMem (s : State) (m : Memory) : State := { s with mem := m }

/-! ### Issue, completion, errors, the interrupt -/

/-- The value of STATUS.ERR for an outcome (60_exceptions R210). -/
def ErrCode.code : ErrCode → BitVec 4
  | .success => 0
  | .illegal => 1
  | .range => 2
  | .frame => 3
  | .payload => 4

/-- What a performed CMD write of `w` does to SMCORE (70 R244, 10_state R58). ERR keeps the previous command's code. -/
def State.issue (s : State) (w : Word) : State :=
  { s with latch := w, cmd := w, status := { s.status with lastop := w.setWidth 8, done := false }, busy := true }

/-- The completion of a command with an outcome code (70 R245): ERR, BUSY <- 0, DONE <- 1. -/
def State.complete (s : State) (e : ErrCode) : State :=
  { s with status := { s.status with err := e, done := true }, busy := false }

/-- A command that ends without an error: its completion with code 0 (70 R245). -/
def succeed (s : State) : Host.Outcome State Fault Refusal := .next (s.complete .success)

/-- `raise Error(code)` (60_exceptions R212), this hardware's whole exception entry: the effects done before it stay, ERR takes
the code and the command completes. Nothing is saved and there is no handler and no return (R222). -/
def raiseError (e : ErrCode) (s : State) : Host.Outcome State Fault Refusal := .next (s.complete e)

/-- The end of a command built from stages: `if e != NONE: raise Error(e)` (43_frame R180-R183), else success. -/
def finish (r : ErrCode × State) : Host.Outcome State Fault Refusal :=
  match r.1 with
  | .success => succeed r.2
  | e => raiseError e r.2

/-- The IRQ output (10_state R59, 60_exceptions R221): DONE and IE. -/
def State.irq (s : State) : Bool := s.status.done && s.ctrl.ie

/-- The response of an access (20_memory R71), put after those before it. -/
def State.answer (s : State) (a : Answer) : State := { s with answers := s.answers ++ [a] }

/-- The reset input (70 R240, R241): every register and buffer takes its reset value, a busy command is abandoned, and the
unwritten FRAME_BUF bytes are drawn anew (assumption log 4, 10). What is outside SMCORE stays. -/
def State.platformReset (s : State) : State :=
  { State.reset with drawEpoch := s.drawEpoch + 1, inputs := s.inputs, answers := s.answers }

end Sys2Proof.Machine
end

