-- ==== Sys2Proof/Machine/RegMap.lean ====
section
/-! DEFINITION. The register map (10_state R22): which register an offset is, the word a register reads as, and what a Host
write does to it (R23-R55). -/

namespace Sys2Proof.Machine

open Sys2Proof

/-- The register at a word offset (10_state R22); none at an offset the map does not hold (20_memory R76). -/
def regAt (off : Nat) : Option Reg :=
  match off with
  | 0x000 => some .ctrl
  | 0x004 => some .status
  | 0x008 => some .cmd
  | 0x00C => some .frameLen
  | 0x010 => some .crcPoly
  | 0x014 => some .crcInit
  | 0x018 => some .crcXorout
  | 0x01C => some .crcAcc
  | 0x020 => some .crcOut
  | 0x024 => some .mfrOut
  | 0x028 => some .dateRef
  | 0x02C => some .dateOut
  | 0x040 => some .hdrStat
  | 0x044 => some .hdrLcvt
  | 0x048 => some .hdrMfr
  | 0x04C => some .hdrMfrc
  | 0x050 => some .hdrAddr
  | 0x054 => some .hdrCrc
  | 0x060 => some .segStat
  | 0x064 => some .segN
  | 0x068 => some .segCi
  | 0x06C => some .segTail
  | 0x080 => some .rdStat
  | 0x084 => some .rdLast
  | 0x088 => some .rdCur
  | 0x08C => some .rdTemp
  | 0x090 => some .rdLdate
  | 0x094 => some .rdCdate
  | 0x098 => some .rdTail
  | off =>
    if 0x100 ≤ off ∧ off < 0x180 ∧ off % 4 = 0 then
      let i := Fin.ofNat 16 ((off - 0x100) / 8)
      some (if off % 8 = 0 then .blkInfo i else .blkCrc i)
    else none

/-! ### The words registers read as -/

/-- CTRL (10_state R24). -/
def Ctrl.word (c : Ctrl) : Word := placeBit c.ie 0 ||| placeBit c.rollfix 1 ||| placeBit c.crcord 2

/-- STATUS (10_state R25). -/
def State.statusWord (s : State) : Word :=
  placeBit s.busy 0 ||| placeBit s.status.done 1 ||| place s.status.err.code 4 ||| place s.status.lastop 8

/-- MFR_OUT, HDR_MFRC (10_state R33, R40). -/
def MfrChars.word (m : MfrChars) : Word := place m.c0 0 ||| place m.c1 8 ||| place m.c2 16

/-- A date record (10_state R34). -/
def DateRecord.word (d : DateRecord) : Word := place d.year 0 ||| place d.month 16 ||| place d.day 24 ||| placeBit d.v 31

/-- Two 16-bit fields, `lo` in bits 15:0 and `hi` in bits 31:16 (10_state R42, R48, R50-R52). -/
def halvesWord (lo hi : Half) : Word := place lo 0 ||| place hi 16

/-- SEG_STAT (10_state R43). -/
def SegRegs.statWord (g : SegRegs) : Word :=
  place g.nblk 0 ||| placeBit g.trunc 8 ||| placeBit g.lshort 9 ||| placeBit g.allOk 10 ||| place g.blkOk 16

/-- BLK_INFO[i] (10_state R47). -/
def BlkInfo.word (b : BlkInfo) : Word := place b.off 0 ||| place b.size 16 ||| placeBit b.ok 24 ||| placeBit b.present 25

/-- The word a read of a register returns, reserved bits 0 (20_memory R77). CRC_OUT is computed at the read (10_state R32). -/
def State.readReg (s : State) : Reg → Word
  | .ctrl => s.ctrl.word
  | .status => s.statusWord
  | .cmd => s.cmd
  | .frameLen => place s.frameLen 0
  | .crcPoly => place s.crcPoly 0
  | .crcInit => place s.crcInit 0
  | .crcXorout => place s.crcXorout 0
  | .crcAcc => place s.crcAcc 0
  | .crcOut => place (s.crcAcc ^^^ s.crcXorout) 0
  | .mfrOut => s.mfrOut.word
  | .dateRef => s.dateRef.word
  | .dateOut => s.dateOut.word
  | .hdrStat => placeBit s.hdr.valid 0 ||| placeBit s.hdr.crcOk 1
  | .hdrLcvt => place s.hdr.l 0 ||| place s.hdr.c 8 ||| place s.hdr.ver 16 ||| place s.hdr.devType 24
  | .hdrMfr => place s.hdr.mfr 0
  | .hdrMfrc => s.hdr.mfrc.word
  | .hdrAddr => s.hdr.addr
  | .hdrCrc => halvesWord s.hdr.crc.stored s.hdr.crc.calculated
  | .segStat => s.seg.statWord
  | .segN => place s.seg.n 0
  | .segCi => place s.seg.ci 0 ||| placeBit s.seg.ciP 8 ||| place s.seg.payLen 16
  | .segTail => place s.seg.endOff 0 ||| place s.seg.tailLen 16
  | .rdStat => placeBit s.rd.valid 0 ||| place s.rd.status 8
  | .rdLast => halvesWord s.rd.ldateRaw s.rd.lvalue
  | .rdCur => halvesWord s.rd.cdateRaw s.rd.cvalue
  | .rdTemp => halvesWord s.rd.t1 s.rd.t2
  | .rdLdate => s.rd.ldate.word
  | .rdCdate => s.rd.cdate.word
  | .rdTail => place s.rd.tlen 0
  | .blkInfo i => (s.seg.blkInfo[i]).word
  | .blkCrc i => halvesWord (s.seg.blkCrc[i]).stored (s.seg.blkCrc[i]).calculated

/-! ### Host writes -/

/-- CTRL from a written word; bits 31:3 are reserved (10_state R24). -/
def Ctrl.ofWord (w : Word) : Ctrl := ⟨w.getLsbD 0, w.getLsbD 1, w.getLsbD 2⟩

/-- A date record from a written word: no legalisation, bits 30:29 ignored (10_state R35). -/
def DateRecord.ofWord (w : Word) : DateRecord :=
  { year := w.extractLsb' 0 16, month := w.extractLsb' 16 8, day := w.extractLsb' 24 5, v := w.getLsbD 31 }

/-- What a performed Host write of `w` to a register does (20_memory R77, R83): CMD issues (R244), STATUS clears DONE by a 1 in
bit 1 (R25), FRAME_LEN takes min(w, 512) (R28), the other RW registers store their bits, an RO register ignores it (R23). -/
def State.writeReg (s : State) (r : Reg) (w : Word) : State :=
  match r with
  | .ctrl => { s with ctrl := Ctrl.ofWord w }
  | .status => if w.getLsbD 1 then { s with status := { s.status with done := false } } else s
  | .cmd => s.issue w
  | .frameLen => { s with frameLen := BitVec.ofNat 10 (min w.toNat 512) }
  | .crcPoly => { s with crcPoly := w.setWidth 16 }
  | .crcInit => { s with crcInit := w.setWidth 16 }
  | .crcXorout => { s with crcXorout := w.setWidth 16 }
  | .dateRef => { s with dateRef := DateRecord.ofWord w }
  | .crcAcc => s
  | .crcOut => s
  | .mfrOut => s
  | .dateOut => s
  | .hdrStat => s
  | .hdrLcvt => s
  | .hdrMfr => s
  | .hdrMfrc => s
  | .hdrAddr => s
  | .hdrCrc => s
  | .segStat => s
  | .segN => s
  | .segCi => s
  | .segTail => s
  | .rdStat => s
  | .rdLast => s
  | .rdCur => s
  | .rdTemp => s
  | .rdLdate => s
  | .rdCdate => s
  | .rdTail => s
  | .blkInfo _ => s
  | .blkCrc _ => s

end Sys2Proof.Machine
end

