-- ==== Sys2Proof/Machine/Bus.lean ====
section
/-! DEFINITION. The bus slave port (20_memory): which accesses are legal, and what each performed access does and answers. -/

namespace Sys2Proof.Machine

open Sys2Proof

/-- The number of bytes of an access (20_memory R71). -/
def AccessSize.bytes : AccessSize → Nat
  | .byte => 1
  | .half => 2
  | .word => 4

/-- What a legal access reaches: a register, or the buffer bytes from a window offset on. -/
inductive Target where
  | reg (r : Reg)
  | frameBuf (a : Nat)
  | payloadBuf (a : Nat)
deriving DecidableEq, Repr

/-- The target of an access of `n` bytes at an offset, none where it completes with ERROR (20_memory R73-R76): misaligned
anywhere; narrower than a word in the register region; an unmapped offset. -/
def target (off n : Nat) : Option Target :=
  if off % n ≠ 0 then none
  else if off < 0x400 then (if n = 4 then (regAt off).map .reg else none)
  else if off < 0x600 then some (.frameBuf off)
  else if off < 0x700 then some (.payloadBuf off)
  else none

/-- The answer of a performed read (20_memory R77, R79, R71). -/
def State.readAnswer (s : State) (off : BitVec 12) (size : AccessSize) : Answer :=
  match target off.toNat size.bytes with
  | some (.reg r) => .data (s.readReg r)
  | some (.frameBuf a) => .data (leWord (s.readBytes a size.bytes))
  | some (.payloadBuf a) => .data (leWord (s.readBytes a size.bytes))
  | none => .error

/-- The state after a performed write, before its answer (20_memory R77, R78): PAYLOAD_BUF ignores it, a refused access changes
nothing. -/
def State.written (s : State) (off : BitVec 12) (size : AccessSize) (data : Word) : State :=
  match target off.toNat size.bytes with
  | some (.reg r) => s.writeReg r data
  | some (.frameBuf a) => s.setMem (s.mem.storeBytes a (leBytes size.bytes data))
  | some (.payloadBuf _) => s
  | none => s

/-- The answer of a performed write: OKAY where the access is legal, whatever the target does with it (20_memory R71, R77). -/
def writeAnswer (off : BitVec 12) (size : AccessSize) : Answer :=
  match target off.toNat size.bytes with
  | some _ => .okay
  | none => .error

/-- A performed access: its effect, then its answer (70 R244, R246). A read has no effect (20_memory R83). -/
def State.perform (s : State) : Access → State
  | .read off size => s.answer (s.readAnswer off size)
  | .write off size data => (s.written off size data).answer (writeAnswer off size)

/-- The port's offset of a Host address (20_memory R72): the interconnect selects SMCORE inside the window, and SMCORE decodes
the low 12 address bits. -/
def portOffset (addr : Nat) : Option (BitVec 12) :=
  if Config.smcoreBase ≤ addr ∧ addr < Config.smcoreBase + 0x1000 then some (BitVec.ofNat 12 addr) else none

end Sys2Proof.Machine
end

