-- ==== Sys2Proof/Machine/Operands.lean ====
section
/-! DEFINITION. Operand forms beside the fields of the command word (30_encoding R107): telegram bytes, payload values, stored
checksums, and the bit fields of 16-bit operands. -/

namespace Sys2Proof.Machine

open Sys2Proof

/-- LEN = FRAME_LEN.LEN, the number of valid telegram bytes (10_state R28, 43_frame preamble). -/
def State.len (s : State) : Nat := s.frameLen.toNat

/-- FB[start .. start + n - 1]. -/
def State.frameBytes (s : State) (start n : Nat) : List Byte := s.readBytes (0x400 + start) n

/-- Whether a CRC_BUF range lies in FRAME_BUF: START + LEN ≤ 512 (40_checksum R126). -/
def rangeFits (start : BitVec 9) (len : BitVec 10) : Bool := start.toNat + len.toNat ≤ 512

/-- `u16(o)`: a little-endian value of the payload (43_frame R178, 20_memory R81). -/
def State.payload16 (s : State) (o : Nat) : Half := le16 (s.pb o) (s.pb (o + 1))

/-- A stored checksum from its two bytes (40_checksum R122): high byte first when CRCORD = 1. -/
def stored16 (crcord : Bool) (p q : Byte) : Half := if crcord then be16 p q else le16 p q

/-- The number in bits `lo + n - 1 : lo` of a 16-bit operand (00_scope R9). -/
def bitsAt (f : Half) (lo n : Nat) : Nat := (f.extractLsb' lo n).toNat

end Sys2Proof.Machine
end

