-- ==== Sys2Proof/Machine/Flags.lean ====
section
/-! DEFINITION. The flag computations (10_state R60): checksum validity, the block flags, and the validity of a date. -/

namespace Sys2Proof.Machine

open Sys2Proof

/-- A checksum is valid when calculated and stored are equal (40_checksum R122). -/
def CrcPair.ok (c : CrcPair) : Bool := c.calculated == c.stored

/-- Bit i is the i-th flag: the bits of SEG_STAT.BLK_OK as a number (10_state R43, `okmap` of 43_frame R175). -/
def flagBits : List Bool → Nat
  | [] => 0
  | b :: bs => b.toNat + 2 * flagBits bs

/-- SEG_STAT.ALL_OK: nothing truncated and every found block's checksum matched (10_state R43). -/
def allBlocksOk (trunc : Bool) (oks : List Bool) : Bool := !trunc && oks.all id

/-- `leap(y)` (42_date R151). -/
def leapYear (y : Nat) : Bool := (y % 4 == 0 && y % 100 != 0) || y % 400 == 0

/-- `dim(y, m)`, the days of a month (42_date R151); 0 for a number that is no month. -/
def daysInMonth (y m : Nat) : Nat :=
  match m with
  | 1 | 3 | 5 | 7 | 8 | 10 | 12 => 31
  | 4 | 6 | 9 | 11 => 30
  | 2 => if leapYear y then 29 else 28
  | _ => 0

/-- `valid(y, m, d)` (42_date R151): the V bit of a date. -/
def validDate (y m d : Nat) : Bool :=
  decide (1 ≤ m) && decide (m ≤ 12) && decide (1 ≤ d) && decide (d ≤ daysInMonth y m)

/-- `(m, d) <lex (c, e)`: strictly before in one year (42_date R152). -/
def earlierInYear (m d c e : Nat) : Bool := decide (m < c) || (m == c && decide (d < e))

end Sys2Proof.Machine
end

