-- ==== Sys2Proof/Machine/Checksum.lean ====
section
/-! DEFINITION. The Checksum Engine (40_checksum): the CRC step, the checksum of a byte sequence, and the commands CRC_INIT,
CRC_BYTE and CRC_BUF. -/

namespace Sys2Proof.Machine

open Sys2Proof

/-- One shift of the register: `(acc << 1)`, reduced by the polynomial when the bit shifted out is 1 (40_checksum R120). -/
def crcShift (poly acc : Half) : Half := if acc.msb then (acc <<< 1) ^^^ poly else acc <<< 1

/-- `repeat n times` of the shift (40_checksum R120). -/
def crcShifts (poly : Half) : Nat → Half → Half
  | 0, acc => acc
  | n + 1, acc => crcShifts poly n (crcShift poly acc)

/-- `crc_step`: one byte, most significant bit first (40_checksum R120). -/
def crcStep (poly acc : Half) (b : Byte) : Half := crcShifts poly 8 (acc ^^^ b.setWidth 16 <<< 8)

/-- The register after a byte sequence. -/
def crcFold (poly acc : Half) (bs : List Byte) : Half := bs.foldl (crcStep poly) acc

/-- `crc16` of a byte sequence under the current configuration, from a fresh accumulator (40_checksum R121). -/
def State.crc16 (s : State) (bs : List Byte) : Half := crcFold s.crcPoly s.crcInit bs ^^^ s.crcXorout

/-- The calculated checksum over `bs` beside the stored one in the bytes `p`, `q` (40_checksum R121, R122). -/
def State.checkPair (s : State) (bs : List Byte) (p q : Byte) : CrcPair :=
  { stored := stored16 s.ctrl.crcord p q, calculated := s.crc16 bs }

/-- CRC_INIT: ACC <- INIT (40_checksum R124). -/
def execCrcInit (s : State) : Host.Outcome State Fault Refusal := succeed (s.setAcc s.crcInit)

/-- CRC_BYTE: ACC <- crc_step(ACC, IMM8, POLY) (40_checksum R125). -/
def execCrcByte (imm8 : Byte) (s : State) : Host.Outcome State Fault Refusal :=
  succeed (s.setAcc (crcStep s.crcPoly s.crcAcc imm8))

/-- CRC_BUF: RANGE with ACC unchanged when START + LEN > 512, else ACC from INIT over FB[START .. START + LEN - 1]
(40_checksum R126). The range is not held against FRAME_LEN. -/
def execCrcBuf (start : BitVec 9) (len : BitVec 10) (s : State) : Host.Outcome State Fault Refusal :=
  if rangeFits start len then
    succeed (s.setAcc (crcFold s.crcPoly s.crcInit (s.frameBytes start.toNat len.toNat)))
  else raiseError .range s

end Sys2Proof.Machine
end

