-- ==== Sys2Proof/Machine/Control.lean ====
section
/-! DEFINITION. The control command NOP (44_control R200). -/

namespace Sys2Proof.Machine

open Sys2Proof

/-- NOP: only the completion effects (44_control R200). -/
def execNop (s : State) : Host.Outcome State Fault Refusal := succeed s

end Sys2Proof.Machine
end

