-- ==== Sys2Proof/Machine/Date.lean ====
section
/-! DEFINITION. The Date Codec (42_date): full and relative dates, DATE_FULL and DATE_REL. -/

namespace Sys2Proof.Machine

open Sys2Proof

/-- A record of computed fields and its V bit (10_state R34). -/
def dateRecord (y m d : Nat) (v : Bool) : DateRecord :=
  { year := BitVec.ofNat 16 y, month := BitVec.ofNat 8 m, day := BitVec.ofNat 5 d, v := v }

/-- `full(f)` (42_date R150): year 2000 + bits 14:9, month bits 8:5 and day bits 4:0, each at least 1. -/
def fullDate (f : Half) : DateRecord :=
  let y := 2000 + bitsAt f 9 6
  let m := max 1 (bitsAt f 5 4)
  let d := max 1 (bitsAt f 0 5)
  dateRecord y m d (validDate y m d)

/-- `rel(f, ref, rollfix)` (42_date R152): month bits 12:9 and day bits 8:4, each at least 1; the year of the reference, or the
next one (mod 65536) for a day of the year before the reference's when ROLLFIX = 1. -/
def relDate (f : Half) (ref : DateRecord) (rollfix : Bool) : DateRecord :=
  let m := max 1 (bitsAt f 9 4)
  let d := max 1 (bitsAt f 4 5)
  let y := if earlierInYear m d ref.month.toNat ref.day.toNat && rollfix then (ref.year.toNat + 1) % 65536 else ref.year.toNat
  dateRecord y m d (ref.v && validDate y m d)

/-- DATE_FULL: DATE_OUT <- full(IMM16), and DATE_REF too when R = 1 (42_date R155). -/
def execDateFull (imm16 : Half) (r : Bool) (s : State) : Host.Outcome State Fault Refusal :=
  let t := s.setDateOut (fullDate imm16)
  succeed (if r then t.setDateRef (fullDate imm16) else t)

/-- DATE_REL: DATE_OUT <- rel(IMM16, DATE_REF, ROLLFIX); DATE_REF is not changed (42_date R156). -/
def execDateRel (imm16 : Half) (s : State) : Host.Outcome State Fault Refusal :=
  succeed (s.setDateOut (relDate imm16 s.dateRef s.ctrl.rollfix))

end Sys2Proof.Machine
end

