-- ==== Sys2Proof/Machine/Manufacturer.lean ====
section
/-! DEFINITION. The Manufacturer Codec (41_manufacturer): the unpacking function and MFR_DECODE. -/

namespace Sys2Proof.Machine

open Sys2Proof

/-- The character of a 5-bit group: 0x40 + the group (41_manufacturer R140). -/
def mfrChar (group : Nat) : Byte := BitVec.ofNat 8 (0x40 + group)

/-- `mfr(m)` (41_manufacturer R140): bits 14:10 first, bits 4:0 last; bit 15 is not read. -/
def mfrUnpack (m : Half) : MfrChars :=
  { c0 := mfrChar (bitsAt m 10 5), c1 := mfrChar (bitsAt m 5 5), c2 := mfrChar (bitsAt m 0 5) }

/-- MFR_DECODE: MFR_OUT <- mfr(IMM16) (41_manufacturer R141). -/
def execMfrDecode (imm16 : Half) (s : State) : Host.Outcome State Fault Refusal :=
  succeed (s.setMfrOut (mfrUnpack imm16))

end Sys2Proof.Machine
end

