-- ==== Sys2Proof/Machine/Frame.lean ====
section
/-! DEFINITION. The frame commands (43_frame): the three stages as operations on the state, and HDR_PARSE, SEGMENT, APP_DECODE
and FRAME_DECODE. No stage reads or writes CRC_ACC, MFR_OUT or DATE_OUT (R179). -/

namespace Sys2Proof.Machine

open Sys2Proof

/-! ### Header stage -/

/-- What the header stage fills the header registers with (43_frame R171). -/
def State.parsedHdr (s : State) : HdrRegs :=
  let m := le16 (s.fb 2) (s.fb 3)
  let pair := s.checkPair (s.frameBytes 0 10) (s.fb 10) (s.fb 11)
  { valid := true, crcOk := pair.ok, l := s.fb 0, c := s.fb 1, ver := s.fb 8, devType := s.fb 9, mfr := m,
    mfrc := mfrUnpack m, addr := leWord [s.fb 4, s.fb 5, s.fb 6, s.fb 7], crc := pair }

/-- `hdr_stage` (43_frame R171): FRAME after clearing the header registers when LEN < 24. -/
def hdrStage (s : State) : ErrCode × State :=
  if s.len < 24 then (.frame, s.setHdr .zero) else (.success, s.setHdr s.parsedHdr)

/-! ### Segmentation stage -/

/-- A block found by the segmenter (43_frame R173): where its data starts, its data bytes, its two checksums. -/
structure Block where
  off : Nat
  bytes : List Byte
  crc : CrcPair
deriving DecidableEq, Repr

/-- What the segmentation loop gives: the complete blocks in order, whether it stopped at a block that does not fit, and the
offset one past the last complete block. -/
structure Segmentation where
  blocks : List Block
  trunc : Bool
  endOff : Nat
deriving DecidableEq, Repr

/-- `N`: the declared payload size, 0 when L < 9 (43_frame R172). -/
def declaredSize (l : Nat) : Nat := if l < 9 then 0 else l - 9

/-- The block of `bs` data bytes at `pos` (43_frame R173, R175). -/
def State.blockAt (s : State) (pos bs : Nat) : Block :=
  { off := pos, bytes := s.frameBytes pos bs,
    crc := s.checkPair (s.frameBytes pos bs) (s.fb (pos + bs)) (s.fb (pos + bs + 1)) }

/-- The loop of 43_frame R175 with `rem` declared bytes left at `pos`, at most `fuel` blocks: `rem` is at most 246, so 16
blocks are enough (00_scope R8; assumption log 12). No byte at or above LEN is read (R174). -/
def State.segLoop (s : State) : (fuel pos rem : Nat) → Segmentation
  | 0, pos, _ => ⟨[], false, pos⟩
  | fuel + 1, pos, rem =>
    if rem = 0 then ⟨[], false, pos⟩
    else
      let bs := min 16 rem
      if s.len < pos + bs + 2 then ⟨[], true, pos⟩
      else
        let rest := s.segLoop fuel (pos + bs + 2) (rem - bs)
        ⟨s.blockAt pos bs :: rest.blocks, rest.trunc, rest.endOff⟩

/-- The segmentation of the telegram in FRAME_BUF (43_frame R175): from offset 12, L read from FB[0]. -/
def State.segmentation (s : State) : Segmentation := s.segLoop 16 12 (declaredSize (s.fb 0).toNat)

/-- All block data bytes in order; the first is the CI byte (43_frame R175). -/
def Segmentation.dataBytes (g : Segmentation) : List Byte := g.blocks.flatMap Block.bytes

/-- The application payload: the block data with the CI byte stripped (43_frame R175). -/
def Segmentation.payload (g : Segmentation) : List Byte := g.dataBytes.drop 1

/-- BLK_INFO of a found block (43_frame R175). -/
def Block.info (b : Block) : BlkInfo :=
  { off := BitVec.ofNat 9 b.off, size := BitVec.ofNat 5 b.bytes.length, ok := b.crc.ok, present := true }

/-- A 16-entry register array from the blocks found, `zero` where there is none (43_frame R175). -/
def blockTable {α : Type} (zero : α) (f : Block → α) (blocks : List Block) : Vector α 16 :=
  Vector.ofFn fun i => ((blocks[i.val]?).map f).getD zero

/-- The segmenter registers for a segmentation (43_frame R175). -/
def State.segRegs (s : State) (g : Segmentation) : SegRegs :=
  let oks := g.blocks.map fun b => b.crc.ok
  { nblk := BitVec.ofNat 5 g.blocks.length
    trunc := g.trunc
    lshort := decide ((s.fb 0).toNat < 9)
    allOk := allBlocksOk g.trunc oks
    blkOk := BitVec.ofNat 16 (flagBits oks)
    n := BitVec.ofNat 8 (declaredSize (s.fb 0).toNat)
    ci := g.dataBytes.headD 0
    ciP := !g.blocks.isEmpty
    payLen := BitVec.ofNat 8 g.payload.length
    endOff := BitVec.ofNat 10 g.endOff
    tailLen := BitVec.ofNat 10 (s.len - g.endOff)
    blkInfo := blockTable .zero Block.info g.blocks
    blkCrc := blockTable .zero Block.crc g.blocks }

/-- PAYLOAD_BUF cleared, then the payload written from its offset 0 (10_state R57, 43_frame R175). -/
def Memory.withPayload (m : Memory) (payload : List Byte) : Memory := m.clearPayload.storeBytes 0x600 payload

/-- `seg_stage` (43_frame R175): FRAME after clearing the segmenter registers and PAYLOAD_BUF when LEN < 24. -/
def segStage (s : State) : ErrCode × State :=
  if s.len < 24 then (.frame, (s.setSeg .zero).setMem s.mem.clearPayload)
  else
    let g := s.segmentation
    (.success, (s.setSeg (s.segRegs g)).setMem (s.mem.withPayload g.payload))

/-! ### Payload stage -/

/-- PAY_LEN as a number (10_state R45). -/
def State.payLen (s : State) : Nat := s.seg.payLen.toNat

/-- lastDate (43_frame R178). -/
def State.lastDate (s : State) : DateRecord := fullDate (s.payload16 1)

/-- What the payload stage fills the reading registers with (43_frame R177, R178). -/
def State.parsedRd (s : State) : RdRegs :=
  { valid := true, status := s.pb 0, ldateRaw := s.payload16 1, lvalue := s.payload16 3, cdateRaw := s.payload16 5,
    cvalue := s.payload16 7, t1 := s.payload16 9, t2 := s.payload16 11, ldate := s.lastDate,
    cdate := relDate (s.payload16 5) s.lastDate s.ctrl.rollfix, tlen := BitVec.ofNat 8 (s.payLen - 13) }

/-- `app_stage` (43_frame R178): PAYLOAD after clearing the reading registers when PAY_LEN < 13, DATE_REF unchanged. -/
def appStage (s : State) : ErrCode × State :=
  if s.payLen < 13 then (.payload, s.setRd .zero) else (.success, (s.setRd s.parsedRd).setDateRef s.lastDate)

/-! ### Commands -/

/-- The first code that is not NONE (43_frame R183, 60_exceptions R220). -/
def ErrCode.orElse (e f : ErrCode) : ErrCode :=
  match e with
  | .success => f
  | e => e

/-- HDR_PARSE (43_frame R180). -/
def execHdrParse (s : State) : Host.Outcome State Fault Refusal := finish (hdrStage s)

/-- SEGMENT (43_frame R181). -/
def execSegment (s : State) : Host.Outcome State Fault Refusal := finish (segStage s)

/-- APP_DECODE (43_frame R182). -/
def execAppDecode (s : State) : Host.Outcome State Fault Refusal := finish (appStage s)

/-- FRAME_DECODE: the three stages in order, each whatever the one before found (43_frame R183). -/
def execFrameDecode (s : State) : Host.Outcome State Fault Refusal :=
  let h := hdrStage s
  let g := segStage h.2
  let a := appStage g.2
  finish (h.1.orElse (g.1.orElse a.1), a.2)

end Sys2Proof.Machine
end

