-- ==== Sys2Proof/Machine/Dispatch.lean ====
section
/-! DEFINITION. What each command does when the Engine executes it: one arm per constructor of Instr. -/

namespace Sys2Proof.Machine

open Sys2Proof

def exec (i : Instr) (s : State) : Host.Outcome State Fault Refusal :=
  match i with
  | .nop => Sys2Proof.Machine.execNop s
  | .crcInit => Sys2Proof.Machine.execCrcInit s
  | .crcByte imm8 => Sys2Proof.Machine.execCrcByte imm8 s
  | .crcBuf start len => Sys2Proof.Machine.execCrcBuf start len s
  | .mfrDecode imm16 => Sys2Proof.Machine.execMfrDecode imm16 s
  | .dateFull imm16 r => Sys2Proof.Machine.execDateFull imm16 r s
  | .dateRel imm16 => Sys2Proof.Machine.execDateRel imm16 s
  | .hdrParse => Sys2Proof.Machine.execHdrParse s
  | .segment => Sys2Proof.Machine.execSegment s
  | .appDecode => Sys2Proof.Machine.execAppDecode s
  | .frameDecode => Sys2Proof.Machine.execFrameDecode s

end Sys2Proof.Machine
end

