-- ==== Sys2Proof/Machine/Engine.lean ====
section
/-! DEFINITION. The agents' steps (70_reset_and_hazards R244-R249): which one moves, the Engine's step, and the performance of
an input. -/

namespace Sys2Proof.Machine

open Sys2Proof

/-- An input that may be performed while BUSY = 1: a 4-byte read of STATUS (70 R246, R247), and a reset, which the platform may
assert at any time (R240). -/
def Input.passesBusy : Input → Bool
  | .access (.read off size) => off == 0x004#12 && size == .word
  | .access (.write _ _ _) => false
  | .reset => true

/-- The move of the next step. -/
inductive Move where
  /-- Nothing to do: BUSY = 0 and no input (60 R229, 70 R250). -/
  | idle
  /-- The Engine's step. -/
  | engine
  /-- The oldest input is performed. -/
  | input (i : Input)
deriving DecidableEq, Repr

/-- Which agent moves (70 R245-R247). While BUSY = 1 an input that may not pass is held and the Engine moves; where the input
may pass, the order is open (CMD_LATENCY, 00_scope R7) and Config.engineFirst decides from the whole state (assumption log 1, 2). -/
def State.nextMove (s : State) : Move :=
  match s.inputs with
  | [] => if s.busy then .engine else .idle
  | i :: _ =>
    if s.busy && (!i.passesBusy || Config.engineFirst s) then .engine else .input i

/-- The Engine's step (70 R245): the latched word is decoded, an illegal one completes with ILLEGAL and no other effect
(60_exceptions R211), a command is executed. -/
def engineStep (s : State) : Host.Outcome State Fault Refusal :=
  match decode s.latch with
  | .ok i => exec i s
  | .error _ => raiseError .illegal s

/-- The performance of the oldest input, which then is no longer pending. -/
def State.takeInput (s : State) (i : Input) : State :=
  let t := { s with inputs := s.inputs.tail }
  match i with
  | .access a => t.perform a
  | .reset => t.platformReset

/-- An issued command whose Engine step is next: the CMD write of R244 without its answer, and nothing else presented. -/
def State.issuedAlone (s : State) (w : Word) : State := { s.issue w with inputs := [] }

end Sys2Proof.Machine
end

