-- ==== Sys2Proof/Machine/HostProgram.lean ====
section
/-! DEFINITION. The pseudo-instructions Host programs are written in (30_encoding R113), each as the accesses it makes. -/

namespace Sys2Proof.Machine

open Sys2Proof

/-- WR8 off, v. -/
def wr8 (off : Nat) (v : Byte) : Input := .access (.write (BitVec.ofNat 12 off) .byte (v.setWidth 32))

/-- WR16 off, v. -/
def wr16 (off : Nat) (v : Half) : Input := .access (.write (BitVec.ofNat 12 off) .half (v.setWidth 32))

/-- WR32 off, v. -/
def wr32 (off : Nat) (v : Word) : Input := .access (.write (BitVec.ofNat 12 off) .word v)

/-- RD32 off. -/
def rd32 (off : Nat) : Input := .access (.read (BitVec.ofNat 12 off) .word)

/-- ISSUE cmd: WR32 0x008, encode(cmd). -/
def issueCommand (i : Instr) : Input := wr32 0x008 (encode i)

/-- WR8 0x400+k, byte_k for each k in order, from k on. -/
def loadBytesFrom (k : Nat) : List Byte → List Input
  | [] => []
  | b :: bs => wr8 (0x400 + k) b :: loadBytesFrom (k + 1) bs

/-- LOAD bytes: the bytes into FRAME_BUF, then their count into FRAME_LEN. -/
def loadTelegram (bytes : List Byte) : List Input :=
  loadBytesFrom 0 bytes ++ [wr32 0x00C (BitVec.ofNat 32 bytes.length)]

/-- The polls of a WAIT: `n` reads of STATUS. How many a WAIT makes is the Host's, which reads until BUSY is 0. -/
def pollStatus (n : Nat) : List Input := List.replicate n (rd32 0x004)

end Sys2Proof.Machine
end

