-- ==== Sys2Proof/Machine/Step.lean ====
section
/-! DEFINITION. One step of the machine: the move of the agent whose turn it is. -/

namespace Sys2Proof.Machine

open Sys2Proof

/-- One step (70 R244-R247): the Engine's, the performance of the oldest input, or none while SMCORE is idle with nothing
presented, which leaves the state as it is (60 R229). -/
def step (s : State) : Host.Outcome State Fault Refusal :=
  match s.nextMove with
  | .idle => .next s
  | .engine => engineStep s
  | .input i => .next (s.takeInput i)

/-- `s` with a command word just issued and nothing else presented, so that the very next step is the Engine's step on it: it
stands for the Host's write of the word to CMD (70 R244; assumption log 7). -/
def State.withFetchWord (s : State) (nbits w : Nat) : State := s.issuedAlone (BitVec.ofNat 32 (w % 2 ^ nbits))

end Sys2Proof.Machine
end

