-- ==== Sys2Proof/Safety.lean ====
section
/-! DEFINITION. What counts as a good state of SMCORE: the relations between its registers that the rules of 10_state promise
of every state, as one invariant. -/

namespace Sys2Proof.Machine

open Sys2Proof

/-- A quiescent state: no command is busy (70 R250). -/
def State.quiescent (s : State) : Prop := s.busy = false

/-- What 10_state R43-R48 say of the segmenter registers among themselves. -/
structure SegRegs.Consistent (g : SegRegs) : Prop where
  /-- NBLK is at most 16 (R43). -/
  nblk_le : g.nblk.toNat ≤ 16
  /-- N is at most 246 (R44). -/
  n_le : g.n.toNat ≤ 246
  /-- PAY_LEN is at most 245 (R45). -/
  payLen_le : g.payLen.toNat ≤ 245
  /-- CI is 0 when CI_P = 0, and CI_P = 1 only when a block was found (R45). -/
  ci_zero : g.ciP = false → g.ci = 0
  ciP_iff : g.ciP = true ↔ 0 < g.nblk.toNat
  /-- END and TAIL_LEN count telegram bytes, of which FRAME_BUF holds at most 512 (R28, R46). -/
  tail_le : g.endOff.toNat + g.tailLen.toNat ≤ 512
  /-- PRESENT is 1 exactly for i < NBLK, and such an entry has a size from 1 to 16 (R47). -/
  present_iff : ∀ i : Fin 16, (g.blkInfo[i]).present = true ↔ i.val < g.nblk.toNat
  size_range : ∀ i : Fin 16, i.val < g.nblk.toNat → 1 ≤ (g.blkInfo[i]).size.toNat ∧ (g.blkInfo[i]).size.toNat ≤ 16
  /-- An entry with i ≥ NBLK is 0 (R47, R48). -/
  absent_zero : ∀ i : Fin 16, g.nblk.toNat ≤ i.val → g.blkInfo[i] = .zero ∧ g.blkCrc[i] = .zero
  /-- OK of a block found says that its two checksums are equal (R47, R48, 40_checksum R122). -/
  ok_iff : ∀ i : Fin 16, i.val < g.nblk.toNat →
    ((g.blkInfo[i]).ok = true ↔ (g.blkCrc[i]).calculated = (g.blkCrc[i]).stored)
  /-- BLK_OK bit i is BLK_INFO[i].OK (R43). -/
  blkOk_bit : ∀ i : Fin 16, g.blkOk.getLsbD i.val = (g.blkInfo[i]).ok
  /-- ALL_OK = 1 says that nothing was truncated and every block found matched (R43). -/
  allOk_says : g.allOk = true → g.trunc = false ∧ ∀ i : Fin 16, i.val < g.nblk.toNat → (g.blkInfo[i]).ok = true

/-- The invariant of the machine: what the rules of 10_state promise of every state. -/
structure State.Inv (s : State) : Prop where
  /-- Memory has its canonical form. -/
  mem_wf : Memory.wf s.mem = true
  /-- FRAME_LEN never exceeds 512 (R28). -/
  frameLen_le : s.frameLen.toNat ≤ 512
  /-- LATCH, CMD and LASTOP record the same word: they are written together (R25, R26, R58). -/
  latch_cmd : s.latch = s.cmd
  lastop_cmd : s.status.lastop = s.cmd.setWidth 8
  /-- DONE is 0 while a command is busy (R25). -/
  busy_not_done : s.busy = true → s.status.done = false
  /-- Header registers that are not VALID are all 0 (R37, 43_frame R171). -/
  hdr_zero : s.hdr.valid = false → s.hdr = .zero
  /-- CRC_OK of a valid header says that its two checksums are equal (R37, R42). -/
  hdr_crcOk : s.hdr.valid = true → (s.hdr.crcOk = true ↔ s.hdr.crc.calculated = s.hdr.crc.stored)
  /-- HDR_MFRC is unpacked from HDR_MFR (R40). -/
  hdr_mfrc : s.hdr.valid = true → s.hdr.mfrc = mfrUnpack s.hdr.mfr
  /-- The segmenter registers agree among themselves (R43-R48). -/
  seg_consistent : s.seg.Consistent
  /-- PAYLOAD_BUF is 0x00 from PAY_LEN on (R57). -/
  payload_tail : ∀ i, s.seg.payLen.toNat ≤ i → i < 256 → s.pb i = 0
  /-- Reading registers that are not VALID are all 0 (R49, 43_frame R178). -/
  rd_zero : s.rd.valid = false → s.rd = .zero

end Sys2Proof.Machine
end

