-- ==== Sys2Proof/Certificates/Slice0/Obligations.lean ====
section
/-! DEFINITION. The statements for the provers, and the few definitions they are stated with: the spec's own numbers written as
arithmetic, so that a statement does not repeat the model's bit operations. -/

namespace Sys2Proof.Claims

open Sys2Proof Sys2Proof.Machine

/-- `s` after the completion of a command with code `e` (70 R245), written out. -/
def done (s : State) (e : ErrCode) : State := { s with busy := false, status := ⟨true, e, s.status.lastop⟩ }

/-- `v[lo + n - 1 : lo]` of a number (00_scope R9). -/
def bitsOf (v lo n : Nat) : Nat := v / 2 ^ lo % 2 ^ n

/-- Which words are commands (30_encoding R108, R110): the OP is in the map and the bits its format reserves are 0. -/
def legalWord (w : Word) : Prop :=
  (bitsOf w.toNat 0 8 ∈ [0x00, 0x01, 0x30, 0x31, 0x32, 0x3F] ∧ w.toNat < 2 ^ 8) ∨
  (bitsOf w.toNat 0 8 = 0x02 ∧ w.toNat < 2 ^ 16) ∨
  (bitsOf w.toNat 0 8 = 0x03 ∧ w.toNat < 2 ^ 27) ∨
  (bitsOf w.toNat 0 8 ∈ [0x10, 0x21] ∧ w.toNat < 2 ^ 24) ∨
  (bitsOf w.toNat 0 8 = 0x20 ∧ w.toNat < 2 ^ 25)

/-- The operands of a command are these fields of the word (30_encoding R107). -/
def operandsAreFields (w : Word) : Instr → Prop
  | .crcByte imm8 => imm8.toNat = bitsOf w.toNat 8 8
  | .crcBuf start len => start.toNat = bitsOf w.toNat 8 9 ∧ len.toNat = bitsOf w.toNat 17 10
  | .mfrDecode imm16 => imm16.toNat = bitsOf w.toNat 8 16
  | .dateFull imm16 r => imm16.toNat = bitsOf w.toNat 8 16 ∧ r.toNat = bitsOf w.toNat 24 1
  | .dateRel imm16 => imm16.toNat = bitsOf w.toNat 8 16
  | .nop => True
  | .crcInit => True
  | .hdrParse => True
  | .segment => True
  | .appDecode => True
  | .frameDecode => True

/-- An operand of the line does not fit its field (30_encoding R112). -/
def operandTooLarge : AsmLine → Prop
  | .crcByte imm8 => 255 < imm8
  | .crcBuf start len => 511 < start ∨ 1023 < len
  | .mfrDecode imm16 => 65535 < imm16
  | .dateFull imm16 _ => 65535 < imm16
  | .dateRel imm16 => 65535 < imm16
  | .nop => False
  | .crcInit => False
  | .hdrParse => False
  | .segment => False
  | .appDecode => False
  | .frameDecode => False

/-- The number of a line's word (30_encoding R114). -/
def lineWord : AsmLine → Nat
  | .nop => 0x00
  | .crcInit => 0x01
  | .crcByte b => 0x02 + b * 2 ^ 8
  | .crcBuf s n => 0x03 + s * 2 ^ 8 + n * 2 ^ 17
  | .mfrDecode m => 0x10 + m * 2 ^ 8
  | .dateFull f r => 0x20 + f * 2 ^ 8 + (if r then 2 ^ 24 else 0)
  | .dateRel f => 0x21 + f * 2 ^ 8
  | .hdrParse => 0x30
  | .segment => 0x31
  | .appDecode => 0x32
  | .frameDecode => 0x3F

/-- One byte through the shift register bit by bit, the most significant first: the bit that leaves the register and the bit
that comes in decide whether the polynomial is subtracted (40_checksum R120). -/
def serialStep (poly acc : Half) (b : Byte) : Half :=
  [7, 6, 5, 4, 3, 2, 1, 0].foldl (fun a k => (a <<< 1) ^^^ (if a.getLsbD 15 != b.getLsbD k then poly else 0)) acc

/-- FB[start .. start + n - 1], one byte at a time. -/
def frameBytes (s : State) (start n : Nat) : List Byte := (List.range n).map fun k => s.fb (start + k)

/-- The commands one after the other, each executed on the state the one before it left. -/
def execAll : List Instr → State → Host.Outcome State Fault Refusal
  | [], s => .next s
  | i :: is, s =>
    match exec i s with
    | .next t => execAll is t
    | .fault f => .fault f
    | .refused r => .refused r

/-- `k` steps of the machine. -/
def run : Nat → State → Host.Outcome State Fault Refusal
  | 0, s => .next s
  | k + 1, s =>
    match step s with
    | .next t => run k t
    | .fault f => .fault f
    | .refused r => .refused r

/-- The number of a stored checksum (40_checksum R122). -/
def storedNumber (crcord : Bool) (p q : Byte) : Nat :=
  if crcord then 256 * p.toNat + q.toNat else p.toNat + 256 * q.toNat

/-- The character number of the 5-bit group from bit `lo` on (41_manufacturer R140). -/
def character (m lo : Nat) : Nat := 0x40 + bitsOf m lo 5

/-- The days of the months (42_date R151). -/
def monthDays (y : Nat) : List Nat :=
  [31, if (4 ∣ y ∧ ¬ 100 ∣ y) ∨ 400 ∣ y then 29 else 28, 31, 30, 31, 30, 31, 31, 30, 31, 30, 31]

/-- (y, m, d) is a day of the calendar (42_date R151). -/
def isDate (y m d : Nat) : Prop := ∃ n, 1 ≤ m ∧ (monthDays y)[m - 1]? = some n ∧ 1 ≤ d ∧ d ≤ n

/-- (a, b) comes before (c, e) (42_date R152). -/
def before (a b c e : Nat) : Prop := a < c ∨ (a = c ∧ b < e)

/-- N of the telegram in FRAME_BUF (43_frame R172). -/
def declared (s : State) : Nat := (s.fb 0).toNat - 9

/-- The data bytes of block `i` of a telegram of declared size `n` (43_frame R173). -/
def blockSize (n i : Nat) : Nat := min 16 (n - 16 * i)

/-- The sum of the SIZE fields of the block table. -/
def sizeSum (g : SegRegs) : Nat := ((List.finRange 16).map fun i => (g.blkInfo[i]).size.toNat).sum

/-- A header whose checksums differ has CRC_OK clear (60_exceptions R216). -/
def headerFlagTells (h : HdrRegs) : Prop := h.crc.calculated ≠ h.crc.stored → h.crcOk = false

/-- A block found whose checksums differ has OK, its BLK_OK bit and ALL_OK clear (60_exceptions R216). -/
def blockFlagsTell (g : SegRegs) : Prop :=
  ∀ i : Fin 16, i.val < g.nblk.toNat → (g.blkCrc[i]).calculated ≠ (g.blkCrc[i]).stored →
    (g.blkInfo[i]).ok = false ∧ g.blkOk.getLsbD i.val = false ∧ g.allOk = false

/-- The offset of a register (10_state R22). -/
def regOffset : Reg → Nat
  | .ctrl => 0x000
  | .status => 0x004
  | .cmd => 0x008
  | .frameLen => 0x00C
  | .crcPoly => 0x010
  | .crcInit => 0x014
  | .crcXorout => 0x018
  | .crcAcc => 0x01C
  | .crcOut => 0x020
  | .mfrOut => 0x024
  | .dateRef => 0x028
  | .dateOut => 0x02C
  | .hdrStat => 0x040
  | .hdrLcvt => 0x044
  | .hdrMfr => 0x048
  | .hdrMfrc => 0x04C
  | .hdrAddr => 0x050
  | .hdrCrc => 0x054
  | .segStat => 0x060
  | .segN => 0x064
  | .segCi => 0x068
  | .segTail => 0x06C
  | .rdStat => 0x080
  | .rdLast => 0x084
  | .rdCur => 0x088
  | .rdTemp => 0x08C
  | .rdLdate => 0x090
  | .rdCdate => 0x094
  | .rdTail => 0x098
  | .blkInfo i => 0x100 + 8 * i.val
  | .blkCrc i => 0x104 + 8 * i.val

/-- The reset value of a register (10_state R22). -/
def resetWord : Reg → Word
  | .ctrl => 0x00000006
  | .crcPoly => 0x00003D65
  | .crcInit => 0x0000FFFF
  | .crcXorout => 0x0000FFFF
  | .crcAcc => 0x0000FFFF
  | _ => 0x00000000

/-- The bits of a register that are not reserved (10_state R24-R55). -/
def fieldBits : Reg → Word
  | .ctrl => 0x00000007
  | .status => 0x0000FFF3
  | .cmd => 0xFFFFFFFF
  | .frameLen => 0x000003FF
  | .crcPoly => 0x0000FFFF
  | .crcInit => 0x0000FFFF
  | .crcXorout => 0x0000FFFF
  | .crcAcc => 0x0000FFFF
  | .crcOut => 0x0000FFFF
  | .mfrOut => 0x00FFFFFF
  | .dateRef => 0x9FFFFFFF
  | .dateOut => 0x9FFFFFFF
  | .hdrStat => 0x00000003
  | .hdrLcvt => 0xFFFFFFFF
  | .hdrMfr => 0x0000FFFF
  | .hdrMfrc => 0x00FFFFFF
  | .hdrAddr => 0xFFFFFFFF
  | .hdrCrc => 0xFFFFFFFF
  | .segStat => 0xFFFF071F
  | .segN => 0x000000FF
  | .segCi => 0x00FF01FF
  | .segTail => 0x03FF03FF
  | .rdStat => 0x0000FF01
  | .rdLast => 0xFFFFFFFF
  | .rdCur => 0xFFFFFFFF
  | .rdTemp => 0xFFFFFFFF
  | .rdLdate => 0x9FFFFFFF
  | .rdCdate => 0x9FFFFFFF
  | .rdTail => 0x000000FF
  | .blkInfo _ => 0x031F01FF
  | .blkCrc _ => 0xFFFFFFFF

/-- The registers a Host write can change (10_state R22: RW, and STATUS by its W1C bit). -/
def hostWritable : List Reg := [.ctrl, .status, .cmd, .frameLen, .crcPoly, .crcInit, .crcXorout, .dateRef]

/-- The number of a date record's word: YEAR bits 15:0, MONTH bits 23:16, DAY bits 28:24, V bit 31 (10_state R34). -/
def dateNumber (d : DateRecord) : Nat := d.year.toNat + 2 ^ 16 * d.month.toNat + 2 ^ 24 * d.day.toNat + 2 ^ 31 * d.v.toNat

/-- Where the fields of a configuration register lie in the word written to it (10_state R24, R28-R31, R34, R35). -/
def storedFields (w : Nat) (t : State) : Reg → Prop
  | .ctrl => t.ctrl.ie.toNat = bitsOf w 0 1 ∧ t.ctrl.rollfix.toNat = bitsOf w 1 1 ∧ t.ctrl.crcord.toNat = bitsOf w 2 1
  | .frameLen => t.frameLen.toNat = min w 512
  | .crcPoly => t.crcPoly.toNat = bitsOf w 0 16
  | .crcInit => t.crcInit.toNat = bitsOf w 0 16
  | .crcXorout => t.crcXorout.toNat = bitsOf w 0 16
  | .dateRef => t.dateRef.year.toNat = bitsOf w 0 16 ∧ t.dateRef.month.toNat = bitsOf w 16 8 ∧
      t.dateRef.day.toNat = bitsOf w 24 5 ∧ t.dateRef.v.toNat = bitsOf w 31 1
  | _ => True

/-- What a configuration register reads as after a Host write of `w` (10_state R24, R28-R31, R35). -/
def storedWord (w : Word) : Reg → Word
  | .ctrl => w &&& 0x00000007
  | .frameLen => BitVec.ofNat 32 (min w.toNat 512)
  | .dateRef => w &&& 0x9FFFFFFF
  | _ => w &&& 0x0000FFFF

/-- The offsets that are not mapped (20_memory R76). -/
def unmapped (off : Nat) : Prop :=
  (0x030 ≤ off ∧ off ≤ 0x03F) ∨ (0x058 ≤ off ∧ off ≤ 0x05F) ∨ (0x070 ≤ off ∧ off ≤ 0x07F) ∨ (0x09C ≤ off ∧ off ≤ 0x0FF) ∨
  (0x180 ≤ off ∧ off ≤ 0x3FF) ∨ (0x700 ≤ off ∧ off ≤ 0xFFF)

/-- An access, its offset and its size. -/
def accessOffset : Access → Nat
  | .read off _ => off.toNat
  | .write off _ _ => off.toNat

/-- The size in bytes of an access. -/
def accessBytes : Access → Nat
  | .read _ size => size.bytes
  | .write _ size _ => size.bytes

/-- The step performs the pending access `a` with ERROR and no other effect (20_memory R71). -/
def refusedWithError (s : State) (rest : List Input) : Prop :=
  step s = .next { s with inputs := rest, answers := s.answers ++ [.error] }

end Sys2Proof.Claims

open Sys2Proof Sys2Proof.Machine

/-! ### Encoding -/

/-- Decoding what the encoder gives for a command gives the command back, with every operand at every value (30_encoding R107,
R109, R114). -/
def Obligations.DecodeReadsBackEveryEncoding : Prop := ∀ i : Instr, decode (encode i) = .ok i

/-- A word that decodes to a command is that command's encoding: no two words stand for one command (30_encoding R108-R110,
R114). -/
def Obligations.EveryLegalWordIsItsCommandsEncoding : Prop :=
  ∀ (w : Word) (i : Instr), decode w = .ok i → encode i = w

/-- 30_encoding R109: a word is the command of the row that matches it, at most one row matches, and a word no row matches is
illegal. -/
def Obligations.DecodingIsTheOneMatchingRow : Prop :=
  ∀ w : Word,
    (∀ r ∈ opcodeMap, ∀ q ∈ opcodeMap, w &&& r.mask = r.pattern → w &&& q.mask = q.pattern → r.mnemonic = q.mnemonic) ∧
    (∀ i, decode w = .ok i ↔ ∃ r ∈ opcodeMap, w &&& r.mask = r.pattern ∧ i = r.command w) ∧
    ((∃ e, decode w = .error e) ↔ ∀ r ∈ opcodeMap, w &&& r.mask ≠ r.pattern)

/-- 30_encoding R110: the illegal words are exactly those with an OP outside the map or a reserved bit set, and executing one
raises ILLEGAL and changes nothing else. -/
def Obligations.IllegalWordsAreRefusedExactly : Prop :=
  ∀ w : Word, ((∃ e, decode w = .error e) ↔ ¬ Claims.legalWord w) ∧
    ∀ s : State, s.latch = w → ¬ Claims.legalWord w → engineStep s = .next (Claims.done s .illegal)

/-- 30_encoding R107: the operands of a decoded command are the fields of its word, zero-extended. -/
def Obligations.OperandsAreTheWordsFields : Prop :=
  ∀ (w : Word) (i : Instr), decode w = .ok i → Claims.operandsAreFields w i

/-- Words written out from 30_encoding R108 and R114 decode to their commands, one of each row. -/
def Obligations.WrittenOutWordsDecode : Prop :=
  decode 0x00000000 = .ok .nop ∧ decode 0x00000001 = .ok .crcInit ∧ decode 0x00003102 = .ok (.crcByte 0x31) ∧
  decode 0x001E0C03 = .ok (.crcBuf 12 15) ∧ decode 0x002C2D10 = .ok (.mfrDecode 0x2C2D) ∧
  decode 0x01279F20 = .ok (.dateFull 0x279F true) ∧ decode 0x0006F021 = .ok (.dateRel 0x06F0) ∧
  decode 0x00000030 = .ok .hdrParse ∧ decode 0x00000031 = .ok .segment ∧ decode 0x00000032 = .ok .appDecode ∧
  decode 0x0000003F = .ok .frameDecode

/-- An assembler line is an error exactly when an operand does not fit its field (30_encoding R112), and otherwise its word is
the one of R114. -/
def Obligations.AssemblerLinesEncode : Prop :=
  ∀ l : AsmLine, (l.instr? = none ↔ Claims.operandTooLarge l) ∧ ∀ i, l.instr? = some i → (encode i).toNat = Claims.lineWord l

/-! ### Steps of the agents -/

/-- The Engine's step on a latched word that decodes runs exactly that command (70 R245), where nothing is presented that may
be performed while BUSY = 1, or where the open order (assumption log 2) puts the Engine first. -/
def Obligations.StepRunsTheDecodedCommand : Prop :=
  ∀ (s : State) (i : Instr), s.busy = true → decode s.latch = .ok i →
    (s.inputs = [] ∨ (∃ j rest, s.inputs = j :: rest ∧ (j.passesBusy = false ∨ Config.engineFirst s = true))) →
    step s = exec i s

/-- 70 R245 and 60_exceptions R210: whatever the command and the state, the Engine's step completes it with BUSY = 0, DONE = 1
and an outcome code, and leaves the record of the command (LASTOP, CMD, LATCH) as the CMD write made it. -/
def Obligations.EveryEngineStepCompletes : Prop :=
  ∀ s : State, ∃ t : State, engineStep s = .next t ∧ t.busy = false ∧ t.status.done = true ∧
    t.status.err.code.toNat ≤ 4 ∧ t.status.lastop = s.status.lastop ∧ t.cmd = s.cmd ∧ t.latch = s.latch

/-- 70 R247: while BUSY = 1 an access other than a 4-byte STATUS read is held: the step is the Engine's, the access stays
pending and is not answered. -/
def Obligations.BusyHoldsEveryOtherAccess : Prop :=
  ∀ (s : State) (a : Access) (rest : List Input), s.busy = true → s.inputs = .access a :: rest → a ≠ .read 0x004 .word →
    ∃ t, step s = .next t ∧ engineStep s = .next t ∧ t.busy = false ∧ t.inputs = .access a :: rest ∧ t.answers = s.answers

/-- A busy command completes within one step more than there are inputs pending (70 R247, R255): whatever the order left open
(assumption log 2), the Engine's step is taken, or a reset abandons the command (R240). -/
def Obligations.BusyCommandEndsWithinPendingInputs : Prop :=
  ∀ s : State, s.busy = true →
    ∃ k t, k ≤ s.inputs.length + 1 ∧ Claims.run k s = .next t ∧ t.busy = false

/-- Polling STATUS does not change what a command does (20_memory R84, 70 R247, R251): after the polls and the Engine's step, in
whatever order, the state is the one the Engine's step alone gives, but for the polls' answers. What follows the polls is an
access that is held while BUSY = 1, or nothing. -/
def Obligations.StatusPollsDoNotChangeTheResult : Prop :=
  ∀ (s u : State) (n : Nat) (rest : List Input), s.busy = true → s.inputs = pollStatus n ++ rest →
    (∀ j, rest.head? = some j → j.passesBusy = false) → engineStep s = .next u →
    ∃ t, Claims.run (n + 1) s = .next t ∧ t = { u with inputs := rest, answers := t.answers } ∧
      t.answers.length = s.answers.length + n

/-- 70 R244: a 4-byte Host write of w to offset 0x008, performed while BUSY = 0, latches w, records it, clears DONE and sets
BUSY; ERR keeps the previous code and the write is answered OKAY whatever w is. -/
def Obligations.CmdWriteIssuesTheCommand : Prop :=
  ∀ (s : State) (w : Word) (rest : List Input), s.busy = false →
    s.inputs = .access (.write 0x008 .word w) :: rest →
    ∃ t, step s = .next t ∧
      t = { s with latch := w, cmd := w, busy := true, status := ⟨false, s.status.err, BitVec.ofNat 8 w.toNat⟩,
                   inputs := rest, answers := s.answers ++ [.okay] } ∧
      t.readReg .cmd = w

/-- 70 R248: a STATUS read performed while BUSY = 1 answers BUSY = 1, DONE = 0, LASTOP = the OP of the busy command and the ERR
code of the command before it, and changes nothing else; where the open order (assumption log 2) puts the Engine first, the
step is the Engine's. The premises on DONE and LASTOP are parts of the invariant that every step keeps. -/
def Obligations.StatusReadWhileBusy : Prop :=
  ∀ (s : State) (rest : List Input), s.busy = true → s.status.done = false → s.status.lastop = s.cmd.setWidth 8 →
    s.latch = s.cmd → s.inputs = .access (.read 0x004 .word) :: rest →
    if Config.engineFirst s then step s = engineStep s
    else ∃ v : Word, step s = .next { s with inputs := rest, answers := s.answers ++ [.data v] } ∧
      v.toNat = 1 + 16 * s.status.err.code.toNat + 256 * Claims.bitsOf s.latch.toNat 0 8

/-! ### Control and checksum commands -/

/-- NOP completes and changes nothing else (44_control R200). -/
def Obligations.NopOnlyCompletes : Prop :=
  ∀ s : State, ∃ t, exec .nop s = .next t ∧ t = Claims.done s .success ∧ ∀ a, t.readByte a = s.readByte a

/-- CRC_INIT copies INIT into ACC, which CRC_ACC reads, and changes nothing else but the completion fields (40_checksum R124,
10_state R27). -/
def Obligations.CrcInitLoadsTheShiftRegister : Prop :=
  ∀ s : State, ∃ t, exec .crcInit s = .next t ∧ t = Claims.done { s with crcAcc := s.crcInit } .success ∧
    (t.readReg .crcAcc).toNat = s.crcInit.toNat ∧
    ∀ a, t.readByte a = s.readByte a

/-- CRC_BYTE shifts its byte through ACC bit by bit, the most significant first, and changes nothing else but the completion
fields; CRC_ACC then reads ACC and CRC_OUT the running checksum (40_checksum R120, R125, 10_state R27, R32). -/
def Obligations.CrcByteFeedsOneByte : Prop :=
  ∀ (b : Byte) (s : State), ∃ t, exec (.crcByte b) s = .next t ∧
    t = Claims.done { s with crcAcc := Claims.serialStep s.crcPoly s.crcAcc b } .success ∧
    (t.readReg .crcAcc).toNat = (Claims.serialStep s.crcPoly s.crcAcc b).toNat ∧
    (t.readReg .crcOut).toNat = (Claims.serialStep s.crcPoly s.crcAcc b ^^^ s.crcXorout).toNat ∧
    ∀ a, t.readByte a = s.readByte a

/-- CRC_BUF over a range inside FRAME_BUF leaves ACC as the fold of the CRC step over its bytes from INIT, so that CRC_OUT
reads crc16 of the range, and changes nothing else but the completion fields (40_checksum R121, R126); CRC_ACC reads ACC (10_state R27). -/
def Obligations.CrcBufChecksumsTheRange : Prop :=
  ∀ (start : BitVec 9) (len : BitVec 10) (s : State), start.toNat + len.toNat ≤ 512 →
    ∃ t, exec (.crcBuf start len) s = .next t ∧
      t = Claims.done { s with crcAcc := (Claims.frameBytes s start.toNat len.toNat).foldl (crcStep s.crcPoly) s.crcInit } .success ∧
      (t.readReg .crcAcc).toNat = t.crcAcc.toNat ∧
      (t.readReg .crcOut).toNat = (s.crc16 (Claims.frameBytes s start.toNat len.toNat)).toNat ∧
      ∀ a, t.readByte a = s.readByte a

/-- 60_exceptions R213: CRC_BUF whose START + LEN exceeds 512 raises RANGE with ACC and everything else unchanged, CMD still
holding the word; no other command ever completes with RANGE. -/
def Obligations.RangeIsRaisedOnlyByCrcBuf : Prop :=
  (∀ (start : BitVec 9) (len : BitVec 10) (s : State), 512 < start.toNat + len.toNat →
    exec (.crcBuf start len) s = .next (Claims.done s .range)) ∧
  ∀ (i : Instr) (s t : State), exec i s = .next t → t.status.err = .range →
    ∃ start len, i = .crcBuf start len ∧ 512 < start.toNat + len.toNat

/-- 40_checksum R127: CRC_INIT followed by CRC_BYTE of the bytes of a range leaves ACC and CRC_OUT as CRC_BUF over the range
does, and CRC_OUT then reads crc16 of the bytes. -/
def Obligations.StreamingAndBufferFormsAgree : Prop :=
  ∀ (start : BitVec 9) (len : BitVec 10) (s : State), start.toNat + len.toNat ≤ 512 →
    ∃ t u, Claims.execAll (.crcInit :: (Claims.frameBytes s start.toNat len.toNat).map .crcByte) s = .next t ∧
      exec (.crcBuf start len) s = .next u ∧ t.crcAcc = u.crcAcc ∧ t.readReg .crcOut = u.readReg .crcOut ∧
      (t.readReg .crcOut).toNat = (s.crc16 (Claims.frameBytes s start.toNat len.toNat)).toNat

/-- The checksum of a sequence is the register's run over it from a fresh INIT, exclusive-ored with XOROUT: of no bytes it is
INIT ^ XOROUT, each further byte is one more step, and nothing but the bytes and the three configuration registers enters
(40_checksum R121, R123). -/
def Obligations.ChecksumRunsFromAFreshAccumulator : Prop :=
  ∀ s : State, s.crc16 [] = s.crcInit ^^^ s.crcXorout ∧
    (∀ bs b, s.crc16 (bs ++ [b]) = Claims.serialStep s.crcPoly (s.crc16 bs ^^^ s.crcXorout) b ^^^ s.crcXorout) ∧
    ∀ (t : State) (bs : List Byte), t.crcPoly = s.crcPoly → t.crcInit = s.crcInit → t.crcXorout = s.crcXorout →
      t.crc16 bs = s.crc16 bs

/-! ### Manufacturer and date commands -/

/-- MFR_DECODE puts 0x40 plus the three 5-bit groups into MFR_OUT, the most significant group first, and changes nothing else
but the completion fields (41_manufacturer R140, R141). -/
def Obligations.MfrDecodeUnpacksThreeCharacters : Prop :=
  ∀ (m : Half) (s : State), ∃ t, exec (.mfrDecode m) s = .next t ∧
    t = Claims.done { s with mfrOut := t.mfrOut } .success ∧
    t.mfrOut.c0.toNat = Claims.character m.toNat 10 ∧ t.mfrOut.c1.toNat = Claims.character m.toNat 5 ∧
    t.mfrOut.c2.toNat = Claims.character m.toNat 0 ∧
    (t.readReg .mfrOut).toNat =
      Claims.character m.toNat 10 + 2 ^ 8 * Claims.character m.toNat 5 + 2 ^ 16 * Claims.character m.toNat 0 ∧
    ∀ a, t.readByte a = s.readByte a

/-- 41_manufacturer R142: the characters give bits 14:0 of the id back, so ids that differ there unpack differently; three
characters are those of the id they pack as. -/
def Obligations.ManufacturerUnpackingIsInvertible : Prop :=
  ∀ m : Half,
    ((mfrUnpack m).c0.toNat - 0x40) * 2 ^ 10 + ((mfrUnpack m).c1.toNat - 0x40) * 2 ^ 5 + ((mfrUnpack m).c2.toNat - 0x40)
      = Claims.bitsOf m.toNat 0 15 ∧
    (∀ n : Half, mfrUnpack m = mfrUnpack n ↔ Claims.bitsOf m.toNat 0 15 = Claims.bitsOf n.toNat 0 15) ∧
    ∀ x y z : Nat, x < 32 → y < 32 → z < 32 →
      let u := mfrUnpack (BitVec.ofNat 16 (x * 2 ^ 10 + y * 2 ^ 5 + z))
      u.c0.toNat = 0x40 + x ∧ u.c1.toNat = 0x40 + y ∧ u.c2.toNat = 0x40 + z

/-- DATE_FULL decodes year, month and day with month and day at least 1, V saying whether they name a date; with the flag R the
record is loaded into DATE_REF too, and nothing else changes but the completion fields (42_date R150, R155); the registers read
as the record's word (10_state R34-R36). -/
def Obligations.DateFullDecodesTheField : Prop :=
  ∀ (f : Half) (r : Bool) (s : State), ∃ t, exec (.dateFull f r) s = .next t ∧
    t = Claims.done { s with dateOut := t.dateOut, dateRef := if r then t.dateOut else s.dateRef } .success ∧
    t.dateOut.year.toNat = 2000 + Claims.bitsOf f.toNat 9 6 ∧
    t.dateOut.month.toNat = max 1 (Claims.bitsOf f.toNat 5 4) ∧
    t.dateOut.day.toNat = max 1 (Claims.bitsOf f.toNat 0 5) ∧
    (t.dateOut.v = true ↔ Claims.isDate t.dateOut.year.toNat t.dateOut.month.toNat t.dateOut.day.toNat) ∧
    (t.readReg .dateOut).toNat = Claims.dateNumber t.dateOut ∧ (r = true → t.readReg .dateRef = t.readReg .dateOut) ∧
    ∀ a, t.readByte a = s.readByte a

/-- 42_date R151: a date is valid exactly when it names a day of the Gregorian calendar. -/
def Obligations.DateValidityIsTheCalendar : Prop := ∀ y m d : Nat, validDate y m d = true ↔ Claims.isDate y m d

/-- DATE_REL takes month and day from the field, at least 1 each, and the year from DATE_REF, the next one (mod 65536) when the
day comes before the reference's in the year and ROLLFIX = 1; V needs a valid reference and a real date; nothing else changes
but the completion fields (42_date R152, R156); DATE_OUT reads as the record's word (10_state R34, R36). -/
def Obligations.DateRelResolvesAgainstTheReference : Prop :=
  ∀ (f : Half) (s : State), ∃ t, exec (.dateRel f) s = .next t ∧
    t = Claims.done { s with dateOut := t.dateOut } .success ∧
    t.dateOut.month.toNat = max 1 (Claims.bitsOf f.toNat 9 4) ∧
    t.dateOut.day.toNat = max 1 (Claims.bitsOf f.toNat 4 5) ∧
    (Claims.before t.dateOut.month.toNat t.dateOut.day.toNat s.dateRef.month.toNat s.dateRef.day.toNat ∧
        s.ctrl.rollfix = true → t.dateOut.year.toNat = (s.dateRef.year.toNat + 1) % 65536) ∧
    (¬(Claims.before t.dateOut.month.toNat t.dateOut.day.toNat s.dateRef.month.toNat s.dateRef.day.toNat ∧
        s.ctrl.rollfix = true) → t.dateOut.year = s.dateRef.year) ∧
    (t.dateOut.v = true ↔
      s.dateRef.v = true ∧ Claims.isDate t.dateOut.year.toNat t.dateOut.month.toNat t.dateOut.day.toNat) ∧
    (t.readReg .dateOut).toNat = Claims.dateNumber t.dateOut ∧
    ∀ a, t.readByte a = s.readByte a

/-- 42_date R154: with ROLLFIX = 1 a relative date resolves to the next occurrence of its month and day on or after the
reference date (the reference year below 65535, where the year does not wrap); with ROLLFIX = 0 every candidate stays in the
reference year. -/
def Obligations.RollfixGivesTheNextOccurrence : Prop :=
  ∀ (f : Half) (ref : DateRecord),
    (relDate f ref false).year = ref.year ∧
    (ref.year.toNat < 65535 →
      let d := relDate f ref true
      ¬ (d.year.toNat < ref.year.toNat ∨ (d.year = ref.year ∧
          Claims.before d.month.toNat d.day.toNat ref.month.toNat ref.day.toNat)) ∧
      ∀ y : Nat, (ref.year.toNat < y ∨ (ref.year.toNat = y ∧
          ¬ Claims.before d.month.toNat d.day.toNat ref.month.toNat ref.day.toNat)) → d.year.toNat ≤ y)

/-- 42_date R153: the clamped month and day are compared with the reference's as numbers, valid dates or not; a candidate equal
to the reference's month and day stays in the reference year; 29 February is valid only when
the year chosen is a leap year; year 65535 rolled over wraps to 0; a reference with V = 0 gives V = 0 with the fields
computed as with V = 1. -/
def Obligations.RelativeDateCorners : Prop :=
  ∀ (f : Half) (ref : DateRecord) (rollfix : Bool),
    let d := relDate f ref rollfix
    d.month.toNat = max 1 (Claims.bitsOf f.toNat 9 4) ∧ d.day.toNat = max 1 (Claims.bitsOf f.toNat 4 5) ∧
    (Claims.before d.month.toNat d.day.toNat ref.month.toNat ref.day.toNat → rollfix = true →
      d.year.toNat = (ref.year.toNat + 1) % 65536) ∧
    (¬ Claims.before d.month.toNat d.day.toNat ref.month.toNat ref.day.toNat → d.year = ref.year) ∧
    (d.month = ref.month → d.day = ref.day → d.year = ref.year) ∧
    (d.month = 2 → d.day = 29 → d.v = true → (4 ∣ d.year.toNat ∧ ¬ 100 ∣ d.year.toNat) ∨ 400 ∣ d.year.toNat) ∧
    (ref.year = 65535 → rollfix = true → Claims.before d.month.toNat d.day.toNat ref.month.toNat ref.day.toNat →
      d.year = 0) ∧
    (ref.v = false → d.v = false ∧ d = { relDate f { ref with v := true } rollfix with v := false })

/-! ### Frame commands -/

/-- HDR_PARSE of a telegram of at least 24 bytes fills the header registers from its bytes, checks the header checksum over
bytes 0-9, and changes nothing else but the completion fields (43_frame R170, R171, R180, 40_checksum R122). -/
def Obligations.HdrParseFillsTheHeaderRegisters : Prop :=
  ∀ s : State, 24 ≤ s.frameLen.toNat →
    let b := fun i => (s.fb i).toNat
    let m := b 2 + 2 ^ 8 * b 3
    let calculated := (s.crc16 (Claims.frameBytes s 0 10)).toNat
    let stored := Claims.storedNumber s.ctrl.crcord (s.fb 10) (s.fb 11)
    ∃ t, exec .hdrParse s = .next t ∧ t = Claims.done { s with hdr := t.hdr } .success ∧
      (t.readReg .hdrLcvt).toNat = b 0 + 2 ^ 8 * b 1 + 2 ^ 16 * b 8 + 2 ^ 24 * b 9 ∧
      (t.readReg .hdrMfr).toNat = m ∧
      (t.readReg .hdrMfrc).toNat =
        Claims.character m 10 + 2 ^ 8 * Claims.character m 5 + 2 ^ 16 * Claims.character m 0 ∧
      (t.readReg .hdrAddr).toNat = b 4 + 2 ^ 8 * b 5 + 2 ^ 16 * b 6 + 2 ^ 24 * b 7 ∧
      (t.readReg .hdrCrc).toNat = stored + 2 ^ 16 * calculated ∧
      (t.readReg .hdrStat).toNat = (if calculated = stored then 3 else 1) ∧
      ∀ a, t.readByte a = s.readByte a

/-- 60_exceptions R214: HDR_PARSE, SEGMENT and FRAME_DECODE raise FRAME when FRAME_LEN < 24, after clearing their result
registers, so that no earlier result stays readable; no other command raises FRAME, and none with FRAME_LEN ≥ 24. -/
def Obligations.ShortFramesRaiseFrame : Prop :=
  (∀ s : State, s.frameLen.toNat < 24 →
    exec .hdrParse s = .next (Claims.done { s with hdr := .zero } .frame) ∧
    (∃ t, exec .segment s = .next t ∧ t = Claims.done { s with seg := .zero, mem := t.mem } .frame ∧
      ∀ a, t.readByte a = if inPayloadBuf a then 0 else s.readByte a) ∧
    ∃ t, exec .frameDecode s = .next t ∧
      t = Claims.done { s with hdr := .zero, seg := .zero, rd := .zero, mem := t.mem } .frame ∧
      ∀ a, t.readByte a = if inPayloadBuf a then 0 else s.readByte a) ∧
  ∀ (i : Instr) (s t : State), exec i s = .next t → t.status.err = .frame →
    s.frameLen.toNat < 24 ∧ (i = .hdrParse ∨ i = .segment ∨ i = .frameDecode)

/-- SEGMENT of a telegram of at least 24 bytes completes without error; it writes the segmenter registers and PAYLOAD_BUF and
leaves every other register, and every byte outside PAYLOAD_BUF, as it was (43_frame R175, R181, 10_state R56, R57). -/
def Obligations.SegmentWritesOnlyItsResults : Prop :=
  ∀ s : State, 24 ≤ s.frameLen.toNat →
    ∃ t, exec .segment s = .next t ∧ t = Claims.done { s with seg := t.seg, mem := t.mem } .success ∧
      (t.readReg .segN).toNat = Claims.declared s ∧ (t.seg.lshort = true ↔ (s.fb 0).toNat < 9) ∧
      ∀ a, ¬ inPayloadBuf a → t.readByte a = s.readByte a

/-- The block table after SEGMENT (43_frame R172, R173, R175, 10_state R43, R47, R48): block i starts at 12 + 18 i, has
min(16, N - 16 i) bytes, lies below FRAME_LEN with its checksum, carries the checksum of its data and the stored one, and its
OK flag and BLK_OK bit say whether they are equal; entries from NBLK on read 0. BLK_INFO[i], BLK_CRC[i] and SEG_STAT read as the
words of these fields at the bits R43, R47 and R48 give them. -/
def Obligations.SegmentFillsTheBlockTable : Prop :=
  ∀ s t : State, 24 ≤ s.frameLen.toNat → exec .segment s = .next t →
    t.seg.nblk.toNat ≤ 16 ∧
    (∀ i : Fin 16, i.val < t.seg.nblk.toNat →
      let pos := 12 + 18 * i.val
      let bs := Claims.blockSize (Claims.declared s) i.val
      (t.seg.blkInfo[i]).off.toNat = pos ∧ (t.seg.blkInfo[i]).size.toNat = bs ∧ (t.seg.blkInfo[i]).present = true ∧
      pos + bs + 2 ≤ s.frameLen.toNat ∧
      (t.seg.blkCrc[i]).calculated = s.crc16 (Claims.frameBytes s pos bs) ∧
      (t.seg.blkCrc[i]).stored.toNat = Claims.storedNumber s.ctrl.crcord (s.fb (pos + bs)) (s.fb (pos + bs + 1)) ∧
      ((t.seg.blkInfo[i]).ok = true ↔ (t.seg.blkCrc[i]).calculated = (t.seg.blkCrc[i]).stored) ∧
      (t.readReg (.blkInfo i)).toNat = pos + 2 ^ 16 * bs + 2 ^ 24 * (t.seg.blkInfo[i]).ok.toNat + 2 ^ 25 ∧
      (t.readReg (.blkCrc i)).toNat = (t.seg.blkCrc[i]).stored.toNat + 2 ^ 16 * (t.seg.blkCrc[i]).calculated.toNat) ∧
    (∀ i : Fin 16, t.seg.nblk.toNat ≤ i.val → t.readReg (.blkInfo i) = 0 ∧ t.readReg (.blkCrc i) = 0) ∧
    (∀ i : Fin 16, t.seg.blkOk.getLsbD i.val = (t.seg.blkInfo[i]).ok) ∧
    (t.seg.allOk = true ↔
      t.seg.trunc = false ∧ ∀ i : Fin 16, i.val < t.seg.nblk.toNat → (t.seg.blkInfo[i]).ok = true) ∧
    (t.readReg .segStat).toNat = t.seg.nblk.toNat + 2 ^ 8 * t.seg.trunc.toNat + (if (s.fb 0).toNat < 9 then 2 ^ 9 else 0) +
      2 ^ 10 * t.seg.allOk.toNat + 2 ^ 16 * t.seg.blkOk.toNat

/-- 43_frame R176: the sizes of the blocks found sum to N (without truncation), NBLK, PAY_LEN, CI_P and END follow from the
sum, every block but the last has 16 bytes, and a second segmentation gives the same table. -/
def Obligations.SegmentationProperties : Prop :=
  ∀ s t : State, 24 ≤ s.frameLen.toNat → exec .segment s = .next t →
    let found := Claims.sizeSum t.seg
    let nblk := t.seg.nblk.toNat
    (t.seg.trunc = false → found = Claims.declared s) ∧
    nblk = (found + 15) / 16 ∧
    (∀ i : Fin 16, i.val < nblk →
      (t.seg.blkInfo[i]).size.toNat = if i.val + 1 < nblk then 16 else found - 16 * (nblk - 1)) ∧
    t.seg.payLen.toNat = found - 1 ∧
    (t.seg.ciP = true ↔ 1 ≤ found) ∧
    t.seg.endOff.toNat = 12 + found + 2 * nblk ∧
    ∀ u, exec .segment t = .next u → u.seg = t.seg

/-- Truncation (43_frame R172, R174, 10_state R46): TRUNC = 1 exactly when declared bytes remain and the next declared block
does not fit below FRAME_LEN; END is one past the last complete block and TAIL_LEN the telegram bytes from there on, and SEG_TAIL reads
as the word of the two. -/
def Obligations.SegmentStopsAtTheFirstBlockThatDoesNotFit : Prop :=
  ∀ s t : State, 24 ≤ s.frameLen.toNat → exec .segment s = .next t →
    let n := Claims.declared s
    let nblk := t.seg.nblk.toNat
    (t.seg.trunc = true → 16 * nblk < n ∧ s.frameLen.toNat < 12 + 18 * nblk + Claims.blockSize n nblk + 2) ∧
    (t.seg.trunc = false → n ≤ 16 * nblk) ∧
    t.seg.endOff.toNat = 12 + min n (16 * nblk) + 2 * nblk ∧
    t.seg.endOff.toNat + t.seg.tailLen.toNat = s.frameLen.toNat ∧
    (t.readReg .segTail).toNat = t.seg.endOff.toNat + 2 ^ 16 * t.seg.tailLen.toNat

/-- Reassembly (43_frame R175, 10_state R45, R57): after SEGMENT, PAYLOAD_BUF holds the block data with the CI byte stripped,
its byte k being data byte k + 1 of the telegram, and 0x00 from PAY_LEN on; CI is the first data byte, and SEG_CI
reads as the word of CI, CI_P and PAY_LEN. -/
def Obligations.SegmentReassemblesThePayload : Prop :=
  ∀ s t : State, 24 ≤ s.frameLen.toNat → exec .segment s = .next t →
    (∀ k, k < 256 →
      t.pb k = if k < t.seg.payLen.toNat then s.fb (12 + (k + 1) + 2 * ((k + 1) / 16)) else 0) ∧
    t.seg.ci = (if t.seg.ciP then s.fb 12 else 0) ∧
    (t.readReg .segCi).toNat = t.seg.ci.toNat + 2 ^ 8 * t.seg.ciP.toNat + 2 ^ 16 * t.seg.payLen.toNat

/-- APP_DECODE of a payload of at least 13 bytes fills the reading registers from its fields, little-endian, decodes the two
dates, the second against the first, loads the first into DATE_REF, and changes nothing else but the completion fields
(43_frame R177, R178, R182); the date registers read as the records' words (10_state R34, R35, R53, R54). -/
def Obligations.AppDecodeExtractsTheReading : Prop :=
  ∀ s : State, 13 ≤ s.seg.payLen.toNat →
    let u := fun o => (s.pb o).toNat + 2 ^ 8 * (s.pb (o + 1)).toNat
    ∃ t, exec .appDecode s = .next t ∧
      t = Claims.done { s with rd := t.rd, dateRef := fullDate (BitVec.ofNat 16 (u 1)) } .success ∧
      (t.readReg .rdStat).toNat = 1 + 2 ^ 8 * (s.pb 0).toNat ∧
      (t.readReg .rdLast).toNat = u 1 + 2 ^ 16 * u 3 ∧
      (t.readReg .rdCur).toNat = u 5 + 2 ^ 16 * u 7 ∧
      (t.readReg .rdTemp).toNat = u 9 + 2 ^ 16 * u 11 ∧
      t.rd.ldate = fullDate (BitVec.ofNat 16 (u 1)) ∧
      t.rd.cdate = relDate (BitVec.ofNat 16 (u 5)) t.rd.ldate s.ctrl.rollfix ∧
      (t.readReg .rdLdate).toNat = Claims.dateNumber t.rd.ldate ∧
      (t.readReg .rdCdate).toNat = Claims.dateNumber t.rd.cdate ∧
      (t.readReg .dateRef).toNat = Claims.dateNumber t.rd.ldate ∧
      (t.readReg .rdTail).toNat = s.seg.payLen.toNat - 13 ∧
      ∀ a, t.readByte a = s.readByte a

/-- 60_exceptions R215: APP_DECODE raises PAYLOAD when PAY_LEN < 13, after clearing the RD_ registers, everything else kept;
FRAME_DECODE does so too when the payload of its own segmentation is that short, keeping the header and segment results; no
other command raises PAYLOAD. -/
def Obligations.ShortPayloadsRaisePayload : Prop :=
  (∀ s : State, s.seg.payLen.toNat < 13 → exec .appDecode s = .next (Claims.done { s with rd := .zero } .payload)) ∧
  (∀ s h g t : State, 24 ≤ s.frameLen.toNat → exec .hdrParse s = .next h → exec .segment s = .next g →
    g.seg.payLen.toNat < 13 → exec .frameDecode s = .next t →
      t = Claims.done { s with hdr := h.hdr, seg := g.seg, mem := g.mem, rd := .zero } .payload) ∧
  ∀ (i : Instr) (s t : State), exec i s = .next t → t.status.err = .payload →
    (i = .appDecode ∨ i = .frameDecode) ∧ t.seg.payLen.toNat < 13

/-- FRAME_DECODE is HDR_PARSE, SEGMENT and APP_DECODE one after the other, each whatever the one before found, with the first
code that is not NONE (43_frame R183, 60_exceptions R220). -/
def Obligations.FrameDecodeIsTheThreeStages : Prop :=
  ∀ s : State, ∃ h g a t, exec .hdrParse s = .next h ∧ exec .segment h = .next g ∧ exec .appDecode g = .next a ∧
    exec .frameDecode s = .next t ∧
    t = Claims.done a (if h.status.err ≠ .success then h.status.err
      else if g.status.err ≠ .success then g.status.err else a.status.err)

/-- The frame commands read FRAME_BUF only below FRAME_LEN (20_memory R91, 43_frame R174, 93 I13): states that agree but for
bytes at or above it give the same results. -/
def Obligations.FrameCommandsReadOnlyBelowFrameLen : Prop :=
  ∀ (i : Instr) (s s' t t' : State), i = .hdrParse ∨ i = .segment ∨ i = .frameDecode →
    s' = { s with mem := s'.mem, drawEpoch := s'.drawEpoch } →
    (∀ k, k < s.frameLen.toNat → k < 512 → s'.fb k = s.fb k) → (∀ k, k < 256 → s'.pb k = s.pb k) →
    exec i s = .next t → exec i s' = .next t' →
      t' = { t with mem := t'.mem, drawEpoch := t'.drawEpoch } ∧ ∀ k, k < 256 → t'.pb k = t.pb k

/-- Nothing of an earlier telegram enters the decode of the next (10_state R61): after FRAME_DECODE every result depends on the
telegram, FRAME_LEN and the configuration registers alone. -/
def Obligations.NoStateCrossesTelegrams : Prop :=
  ∀ s s' t t' : State, s'.ctrl = s.ctrl → s'.crcPoly = s.crcPoly → s'.crcInit = s.crcInit → s'.crcXorout = s.crcXorout →
    s'.frameLen = s.frameLen → (∀ k, k < s.frameLen.toNat → k < 512 → s'.fb k = s.fb k) →
    exec .frameDecode s = .next t → exec .frameDecode s' = .next t' →
      t'.hdr = t.hdr ∧ t'.seg = t.seg ∧ t'.rd = t.rd ∧ t'.status.err = t.status.err ∧ (∀ k, k < 256 → t'.pb k = t.pb k) ∧
      (t.status.err = .success → t'.dateRef = t.dateRef)

/-- 60_exceptions R216: a checksum mismatch clears CRC_OK, or OK with its BLK_OK bit and ALL_OK, and never changes ERR: the
header and segmentation commands complete without error on every telegram of at least 24 bytes, and FRAME_DECODE errs on such a
telegram only for its payload's length. -/
def Obligations.ChecksumMismatchIsOnlyAFlag : Prop :=
  ∀ s t : State, 24 ≤ s.frameLen.toNat →
    (exec .hdrParse s = .next t → t.status.err = .success ∧ Claims.headerFlagTells t.hdr) ∧
    (exec .segment s = .next t → t.status.err = .success ∧ Claims.blockFlagsTell t.seg) ∧
    (exec .frameDecode s = .next t → Claims.headerFlagTells t.hdr ∧ Claims.blockFlagsTell t.seg ∧ (t.status.err = .success ↔ 13 ≤ t.seg.payLen.toNat) ∧
      (t.status.err = .payload ↔ t.seg.payLen.toNat < 13))

/-! ### What the Engine may change -/

/-- The Engine never writes what the Host owns (10_state R24, R26, R28-R31, R56): no Engine step, of a legal word or not,
changes CTRL, CMD, FRAME_LEN, the checksum configuration, a byte of FRAME_BUF, or anything outside SMCORE. -/
def Obligations.EngineNeverWritesWhatTheHostOwns : Prop :=
  ∀ s t : State, engineStep s = .next t →
    t.ctrl = s.ctrl ∧ t.cmd = s.cmd ∧ t.frameLen = s.frameLen ∧ t.crcPoly = s.crcPoly ∧ t.crcInit = s.crcInit ∧
    t.crcXorout = s.crcXorout ∧ t.drawEpoch = s.drawEpoch ∧ t.inputs = s.inputs ∧ t.answers = s.answers ∧
    ∀ k, k < 512 → t.fb k = s.fb k

/-- Each result register is written only by the commands its rule names (10_state R27, R33, R35-R37, R43, R57, 43_frame R179,
70 R254). -/
def Obligations.ResultsAreWrittenOnlyByTheirCommands : Prop :=
  ∀ (i : Instr) (s t : State), exec i s = .next t →
    (t.crcAcc ≠ s.crcAcc → i = .crcInit ∨ (∃ b, i = .crcByte b) ∨ ∃ a n, i = .crcBuf a n) ∧
    (t.mfrOut ≠ s.mfrOut → ∃ m, i = .mfrDecode m) ∧
    (t.dateOut ≠ s.dateOut → (∃ f r, i = .dateFull f r) ∨ ∃ f, i = .dateRel f) ∧
    (t.dateRef ≠ s.dateRef → (∃ f, i = .dateFull f true) ∨ i = .appDecode ∨ i = .frameDecode) ∧
    (t.hdr ≠ s.hdr → i = .hdrParse ∨ i = .frameDecode) ∧
    (t.seg ≠ s.seg → i = .segment ∨ i = .frameDecode) ∧
    (t.rd ≠ s.rd → i = .appDecode ∨ i = .frameDecode) ∧
    ((∃ a, t.readByte a ≠ s.readByte a) → i = .segment ∨ i = .frameDecode)

/-! ### Registers and the bus -/

/-- Reserved bits read 0 in every register of every state (10_state R23). -/
def Obligations.ReservedBitsReadZero : Prop :=
  ∀ (s : State) (r : Reg), s.readReg r &&& Claims.fieldBits r = s.readReg r

/-- The register map (10_state R22, 20_memory R73, R77): an idle 4-byte read at a register's offset answers the register's
word and changes nothing else, and no other offset below 0x400 is a register. -/
def Obligations.RegistersAreReadAtTheirOffsets : Prop :=
  (∀ (s : State) (r : Reg) (rest : List Input), s.busy = false →
    s.inputs = .access (.read (BitVec.ofNat 12 (Claims.regOffset r)) .word) :: rest →
    step s = .next { s with inputs := rest, answers := s.answers ++ [.data (s.readReg r)] }) ∧
  ∀ off r, target off 4 = some (.reg r) → off = Claims.regOffset r

/-- 20_memory R74: a misaligned access anywhere in the window completes with ERROR and has no effect. -/
def Obligations.MisalignedAccessesAnswerError : Prop :=
  ∀ (s : State) (a : Access) (rest : List Input), s.busy = false → s.inputs = .access a :: rest →
    Claims.accessOffset a % Claims.accessBytes a ≠ 0 → Claims.refusedWithError s rest

/-- 20_memory R75: a 1- or 2-byte access to the register region completes with ERROR and has no effect. -/
def Obligations.NarrowRegisterAccessesAnswerError : Prop :=
  ∀ (s : State) (a : Access) (rest : List Input), s.busy = false → s.inputs = .access a :: rest →
    Claims.accessOffset a < 0x400 → Claims.accessBytes a < 4 → Claims.refusedWithError s rest

/-- 20_memory R76: an access of any size to an unmapped offset completes with ERROR and has no effect; every aligned word of
the window outside the listed ranges is mapped. -/
def Obligations.UnmappedAccessesAnswerError : Prop :=
  (∀ (s : State) (a : Access) (rest : List Input), s.busy = false → s.inputs = .access a :: rest →
    Claims.unmapped (Claims.accessOffset a) → Claims.refusedWithError s rest) ∧
  ∀ off : BitVec 12, off.toNat % 4 = 0 → ¬ Claims.unmapped off.toNat → (target off.toNat 4).isSome = true

/-- 20_memory R78: a legal Host write of n bytes at 0x400 + i sets FB[i + k] to byte k of the value, least significant first,
is answered OKAY, and changes nothing else. -/
def Obligations.FrameBufWriteStoresLittleEndian : Prop :=
  ∀ (s : State) (i : Nat) (size : AccessSize) (v : Word) (rest : List Input), s.busy = false → i < 512 →
    i % size.bytes = 0 → s.inputs = .access (.write (BitVec.ofNat 12 (0x400 + i)) size v) :: rest →
    ∃ t, step s = .next t ∧ t = { s with mem := t.mem, inputs := rest, answers := s.answers ++ [.okay] } ∧
      (∀ k, k < size.bytes → (t.fb (i + k)).toNat = Claims.bitsOf v.toNat (8 * k) 8) ∧
      ∀ a, (a < 0x400 + i ∨ 0x400 + i + size.bytes ≤ a) → t.readByte a = s.readByte a

/-- 20_memory R79: a legal Host read of n bytes of FRAME_BUF or PAYLOAD_BUF answers the bytes assembled least significant first,
and changes nothing else. A FRAME_BUF byte not written since reset contributes its draw, a free value (assumption log 3). -/
def Obligations.BufferReadAssemblesLittleEndian : Prop :=
  ∀ (s : State) (a : Nat) (size : AccessSize) (rest : List Input), s.busy = false → inFrameBuf a ∨ inPayloadBuf a →
    a % size.bytes = 0 → s.inputs = .access (.read (BitVec.ofNat 12 a) size) :: rest →
    ∃ v : Word, step s = .next { s with inputs := rest, answers := s.answers ++ [.data v] } ∧
      (∀ k, k < size.bytes → Claims.bitsOf v.toNat (8 * k) 8 = (s.readByte (a + k)).toNat) ∧
      v.toNat < 2 ^ (8 * size.bytes)

/-- A Host write to a read-only register or to PAYLOAD_BUF completes with OKAY and changes nothing (10_state R23, 20_memory
R77). -/
def Obligations.ReadOnlyStateIgnoresWrites : Prop :=
  ∀ (s : State) (off : Nat) (size : AccessSize) (v : Word) (rest : List Input), s.busy = false →
    ((∃ r, r ∉ Claims.hostWritable ∧ off = Claims.regOffset r ∧ size = .word) ∨ (inPayloadBuf off ∧ off % size.bytes = 0)) →
    s.inputs = .access (.write (BitVec.ofNat 12 off) size v) :: rest →
    step s = .next { s with inputs := rest, answers := s.answers ++ [.okay] }

/-- A Host write to a configuration register stores its fields from their bits of the word (CTRL: IE bit 0, ROLLFIX bit 1,
CRCORD bit 2; DATE_REF: YEAR, MONTH, DAY, V as in R34; FRAME_LEN takes min(w, 512)), reads back as them (10_state R24, R28-R31,
R34, R35), and changes no other register, but CRC_OUT, which is computed from CRC_XOROUT at the read (R32), and no byte of memory. -/
def Obligations.ConfigurationWritesStoreTheirFields : Prop :=
  ∀ (s : State) (r : Reg) (w : Word) (rest : List Input), s.busy = false →
    r ∈ Claims.hostWritable → r ≠ .status → r ≠ .cmd →
    s.inputs = .access (.write (BitVec.ofNat 12 (Claims.regOffset r)) .word w) :: rest →
    ∃ t, step s = .next t ∧ t.readReg r = Claims.storedWord w r ∧ Claims.storedFields w.toNat t r ∧ t.inputs = rest ∧ t.answers = s.answers ++ [.okay] ∧
      (∀ q : Reg, q ≠ r → (q = .crcOut → r ≠ .crcXorout) → t.readReg q = s.readReg q) ∧
      ∀ a, t.readByte a = s.readByte a

/-- A Host write to STATUS clears DONE when its bit 1 is 1 and changes nothing else; IRQ is DONE and IE, so it falls with DONE
(10_state R25, R59, 60_exceptions R221). -/
def Obligations.StatusWriteAcknowledgesTheInterrupt : Prop :=
  ∀ (s : State) (w : Word) (rest : List Input), s.busy = false →
    s.inputs = .access (.write 0x004 .word w) :: rest →
    ∃ t, step s = .next t ∧ t.inputs = rest ∧ t.answers = s.answers ++ [.okay] ∧
      t = { s with status := { s.status with done := t.status.done }, inputs := rest, answers := s.answers ++ [.okay] } ∧
      (t.status.done = true ↔ s.status.done = true ∧ Claims.bitsOf w.toNat 1 1 = 0) ∧
      (t.irq = true ↔
        Claims.bitsOf (t.readReg .status).toNat 1 1 = 1 ∧ Claims.bitsOf (t.readReg .ctrl).toNat 0 1 = 1)

/-- A Host address inside the window reaches the port at its low 12 bits, and an address outside does not reach it, wherever the
platform puts the window (20_memory R72, assumption log 6). -/
def Obligations.WindowAddressesReachTheirOffsets : Prop :=
  (∀ off : BitVec 12, portOffset (Config.smcoreBase + off.toNat) = some off) ∧
  ∀ addr off, portOffset addr = some off → addr = Config.smcoreBase + off.toNat

/-! ### Reset and the invariant -/

/-- 70 R241: after reset every register reads the reset value of the map, PAYLOAD_BUF is 0x00, BUSY and LATCH are 0 and IRQ is
0. -/
def Obligations.ResetLeavesTheResetState : Prop :=
  (∀ r : Reg, State.reset.readReg r = Claims.resetWord r) ∧ (∀ k, k < 256 → State.reset.pb k = 0x00) ∧
  State.reset.busy = false ∧ State.reset.latch = 0 ∧ State.reset.irq = false

/-- The reset input (70 R240, R241): performed in any state, it leaves every register and buffer at its reset value and no
command busy, with none of an abandoned command's effects; the FRAME_BUF bytes are drawn anew (the model's choice, assumption
log 4, 10). -/
def Obligations.PlatformResetAbandonsTheCommand : Prop :=
  ∀ (s : State) (rest : List Input), s.inputs = .reset :: rest →
    (s.busy = false ∨ Config.engineFirst s = false) →
    ∃ t, step s = .next t ∧ (∀ r : Reg, t.readReg r = Claims.resetWord r) ∧ (∀ k, k < 256 → t.pb k = 0x00) ∧
      (∀ k, k < 512 → t.fb k = Config.frameDraw (s.drawEpoch + 1) k) ∧ t.latch = 0 ∧ t.irq = false ∧ t.inputs = rest

/-- The reset state meets the invariant. -/
def Obligations.ResetMeetsTheInvariant : Prop := State.Inv State.reset

/-- Every step from a state that meets the invariant gives a state that meets it: the memory's canonical form, FRAME_LEN at most
512, LATCH and LASTOP recording CMD, no DONE while BUSY, and what 10_state R37-R57 say of the result registers among
themselves. -/
def Obligations.StepKeepsTheInvariant : Prop :=
  ∀ s t : State, s.Inv → step s = .next t → t.Inv
end

