-- ==== Sys2Proof/Laws/State.lean ====
section
/-! SUPPORT. One lemma per field of State per update, so that no later proof unfolds a record update. -/

namespace Sys2Proof.Machine

open Sys2Proof

/-! ### State.setAcc -/

@[simp] theorem State.setAcc_ctrl (s : State) (a : Half) : (s.setAcc a).ctrl = s.ctrl := rfl
@[simp] theorem State.setAcc_status (s : State) (a : Half) : (s.setAcc a).status = s.status := rfl
@[simp] theorem State.setAcc_busy (s : State) (a : Half) : (s.setAcc a).busy = s.busy := rfl
@[simp] theorem State.setAcc_latch (s : State) (a : Half) : (s.setAcc a).latch = s.latch := rfl
@[simp] theorem State.setAcc_cmd (s : State) (a : Half) : (s.setAcc a).cmd = s.cmd := rfl
@[simp] theorem State.setAcc_frameLen (s : State) (a : Half) : (s.setAcc a).frameLen = s.frameLen := rfl
@[simp] theorem State.setAcc_crcPoly (s : State) (a : Half) : (s.setAcc a).crcPoly = s.crcPoly := rfl
@[simp] theorem State.setAcc_crcInit (s : State) (a : Half) : (s.setAcc a).crcInit = s.crcInit := rfl
@[simp] theorem State.setAcc_crcXorout (s : State) (a : Half) : (s.setAcc a).crcXorout = s.crcXorout := rfl
@[simp] theorem State.setAcc_crcAcc (s : State) (a : Half) : (s.setAcc a).crcAcc = a := rfl
@[simp] theorem State.setAcc_mfrOut (s : State) (a : Half) : (s.setAcc a).mfrOut = s.mfrOut := rfl
@[simp] theorem State.setAcc_dateRef (s : State) (a : Half) : (s.setAcc a).dateRef = s.dateRef := rfl
@[simp] theorem State.setAcc_dateOut (s : State) (a : Half) : (s.setAcc a).dateOut = s.dateOut := rfl
@[simp] theorem State.setAcc_hdr (s : State) (a : Half) : (s.setAcc a).hdr = s.hdr := rfl
@[simp] theorem State.setAcc_seg (s : State) (a : Half) : (s.setAcc a).seg = s.seg := rfl
@[simp] theorem State.setAcc_rd (s : State) (a : Half) : (s.setAcc a).rd = s.rd := rfl
@[simp] theorem State.setAcc_mem (s : State) (a : Half) : (s.setAcc a).mem = s.mem := rfl
@[simp] theorem State.setAcc_drawEpoch (s : State) (a : Half) : (s.setAcc a).drawEpoch = s.drawEpoch := rfl
@[simp] theorem State.setAcc_inputs (s : State) (a : Half) : (s.setAcc a).inputs = s.inputs := rfl
@[simp] theorem State.setAcc_answers (s : State) (a : Half) : (s.setAcc a).answers = s.answers := rfl

/-! ### State.setMfrOut -/

@[simp] theorem State.setMfrOut_ctrl (s : State) (m : MfrChars) : (s.setMfrOut m).ctrl = s.ctrl := rfl
@[simp] theorem State.setMfrOut_status (s : State) (m : MfrChars) : (s.setMfrOut m).status = s.status := rfl
@[simp] theorem State.setMfrOut_busy (s : State) (m : MfrChars) : (s.setMfrOut m).busy = s.busy := rfl
@[simp] theorem State.setMfrOut_latch (s : State) (m : MfrChars) : (s.setMfrOut m).latch = s.latch := rfl
@[simp] theorem State.setMfrOut_cmd (s : State) (m : MfrChars) : (s.setMfrOut m).cmd = s.cmd := rfl
@[simp] theorem State.setMfrOut_frameLen (s : State) (m : MfrChars) : (s.setMfrOut m).frameLen = s.frameLen := rfl
@[simp] theorem State.setMfrOut_crcPoly (s : State) (m : MfrChars) : (s.setMfrOut m).crcPoly = s.crcPoly := rfl
@[simp] theorem State.setMfrOut_crcInit (s : State) (m : MfrChars) : (s.setMfrOut m).crcInit = s.crcInit := rfl
@[simp] theorem State.setMfrOut_crcXorout (s : State) (m : MfrChars) : (s.setMfrOut m).crcXorout = s.crcXorout := rfl
@[simp] theorem State.setMfrOut_crcAcc (s : State) (m : MfrChars) : (s.setMfrOut m).crcAcc = s.crcAcc := rfl
@[simp] theorem State.setMfrOut_mfrOut (s : State) (m : MfrChars) : (s.setMfrOut m).mfrOut = m := rfl
@[simp] theorem State.setMfrOut_dateRef (s : State) (m : MfrChars) : (s.setMfrOut m).dateRef = s.dateRef := rfl
@[simp] theorem State.setMfrOut_dateOut (s : State) (m : MfrChars) : (s.setMfrOut m).dateOut = s.dateOut := rfl
@[simp] theorem State.setMfrOut_hdr (s : State) (m : MfrChars) : (s.setMfrOut m).hdr = s.hdr := rfl
@[simp] theorem State.setMfrOut_seg (s : State) (m : MfrChars) : (s.setMfrOut m).seg = s.seg := rfl
@[simp] theorem State.setMfrOut_rd (s : State) (m : MfrChars) : (s.setMfrOut m).rd = s.rd := rfl
@[simp] theorem State.setMfrOut_mem (s : State) (m : MfrChars) : (s.setMfrOut m).mem = s.mem := rfl
@[simp] theorem State.setMfrOut_drawEpoch (s : State) (m : MfrChars) : (s.setMfrOut m).drawEpoch = s.drawEpoch := rfl
@[simp] theorem State.setMfrOut_inputs (s : State) (m : MfrChars) : (s.setMfrOut m).inputs = s.inputs := rfl
@[simp] theorem State.setMfrOut_answers (s : State) (m : MfrChars) : (s.setMfrOut m).answers = s.answers := rfl

/-! ### State.setDateOut -/

@[simp] theorem State.setDateOut_ctrl (s : State) (d : DateRecord) : (s.setDateOut d).ctrl = s.ctrl := rfl
@[simp] theorem State.setDateOut_status (s : State) (d : DateRecord) : (s.setDateOut d).status = s.status := rfl
@[simp] theorem State.setDateOut_busy (s : State) (d : DateRecord) : (s.setDateOut d).busy = s.busy := rfl
@[simp] theorem State.setDateOut_latch (s : State) (d : DateRecord) : (s.setDateOut d).latch = s.latch := rfl
@[simp] theorem State.setDateOut_cmd (s : State) (d : DateRecord) : (s.setDateOut d).cmd = s.cmd := rfl
@[simp] theorem State.setDateOut_frameLen (s : State) (d : DateRecord) : (s.setDateOut d).frameLen = s.frameLen := rfl
@[simp] theorem State.setDateOut_crcPoly (s : State) (d : DateRecord) : (s.setDateOut d).crcPoly = s.crcPoly := rfl
@[simp] theorem State.setDateOut_crcInit (s : State) (d : DateRecord) : (s.setDateOut d).crcInit = s.crcInit := rfl
@[simp] theorem State.setDateOut_crcXorout (s : State) (d : DateRecord) : (s.setDateOut d).crcXorout = s.crcXorout := rfl
@[simp] theorem State.setDateOut_crcAcc (s : State) (d : DateRecord) : (s.setDateOut d).crcAcc = s.crcAcc := rfl
@[simp] theorem State.setDateOut_mfrOut (s : State) (d : DateRecord) : (s.setDateOut d).mfrOut = s.mfrOut := rfl
@[simp] theorem State.setDateOut_dateRef (s : State) (d : DateRecord) : (s.setDateOut d).dateRef = s.dateRef := rfl
@[simp] theorem State.setDateOut_dateOut (s : State) (d : DateRecord) : (s.setDateOut d).dateOut = d := rfl
@[simp] theorem State.setDateOut_hdr (s : State) (d : DateRecord) : (s.setDateOut d).hdr = s.hdr := rfl
@[simp] theorem State.setDateOut_seg (s : State) (d : DateRecord) : (s.setDateOut d).seg = s.seg := rfl
@[simp] theorem State.setDateOut_rd (s : State) (d : DateRecord) : (s.setDateOut d).rd = s.rd := rfl
@[simp] theorem State.setDateOut_mem (s : State) (d : DateRecord) : (s.setDateOut d).mem = s.mem := rfl
@[simp] theorem State.setDateOut_drawEpoch (s : State) (d : DateRecord) : (s.setDateOut d).drawEpoch = s.drawEpoch := rfl
@[simp] theorem State.setDateOut_inputs (s : State) (d : DateRecord) : (s.setDateOut d).inputs = s.inputs := rfl
@[simp] theorem State.setDateOut_answers (s : State) (d : DateRecord) : (s.setDateOut d).answers = s.answers := rfl

/-! ### State.setDateRef -/

@[simp] theorem State.setDateRef_ctrl (s : State) (d : DateRecord) : (s.setDateRef d).ctrl = s.ctrl := rfl
@[simp] theorem State.setDateRef_status (s : State) (d : DateRecord) : (s.setDateRef d).status = s.status := rfl
@[simp] theorem State.setDateRef_busy (s : State) (d : DateRecord) : (s.setDateRef d).busy = s.busy := rfl
@[simp] theorem State.setDateRef_latch (s : State) (d : DateRecord) : (s.setDateRef d).latch = s.latch := rfl
@[simp] theorem State.setDateRef_cmd (s : State) (d : DateRecord) : (s.setDateRef d).cmd = s.cmd := rfl
@[simp] theorem State.setDateRef_frameLen (s : State) (d : DateRecord) : (s.setDateRef d).frameLen = s.frameLen := rfl
@[simp] theorem State.setDateRef_crcPoly (s : State) (d : DateRecord) : (s.setDateRef d).crcPoly = s.crcPoly := rfl
@[simp] theorem State.setDateRef_crcInit (s : State) (d : DateRecord) : (s.setDateRef d).crcInit = s.crcInit := rfl
@[simp] theorem State.setDateRef_crcXorout (s : State) (d : DateRecord) : (s.setDateRef d).crcXorout = s.crcXorout := rfl
@[simp] theorem State.setDateRef_crcAcc (s : State) (d : DateRecord) : (s.setDateRef d).crcAcc = s.crcAcc := rfl
@[simp] theorem State.setDateRef_mfrOut (s : State) (d : DateRecord) : (s.setDateRef d).mfrOut = s.mfrOut := rfl
@[simp] theorem State.setDateRef_dateRef (s : State) (d : DateRecord) : (s.setDateRef d).dateRef = d := rfl
@[simp] theorem State.setDateRef_dateOut (s : State) (d : DateRecord) : (s.setDateRef d).dateOut = s.dateOut := rfl
@[simp] theorem State.setDateRef_hdr (s : State) (d : DateRecord) : (s.setDateRef d).hdr = s.hdr := rfl
@[simp] theorem State.setDateRef_seg (s : State) (d : DateRecord) : (s.setDateRef d).seg = s.seg := rfl
@[simp] theorem State.setDateRef_rd (s : State) (d : DateRecord) : (s.setDateRef d).rd = s.rd := rfl
@[simp] theorem State.setDateRef_mem (s : State) (d : DateRecord) : (s.setDateRef d).mem = s.mem := rfl
@[simp] theorem State.setDateRef_drawEpoch (s : State) (d : DateRecord) : (s.setDateRef d).drawEpoch = s.drawEpoch := rfl
@[simp] theorem State.setDateRef_inputs (s : State) (d : DateRecord) : (s.setDateRef d).inputs = s.inputs := rfl
@[simp] theorem State.setDateRef_answers (s : State) (d : DateRecord) : (s.setDateRef d).answers = s.answers := rfl

/-! ### State.setHdr -/

@[simp] theorem State.setHdr_ctrl (s : State) (h : HdrRegs) : (s.setHdr h).ctrl = s.ctrl := rfl
@[simp] theorem State.setHdr_status (s : State) (h : HdrRegs) : (s.setHdr h).status = s.status := rfl
@[simp] theorem State.setHdr_busy (s : State) (h : HdrRegs) : (s.setHdr h).busy = s.busy := rfl
@[simp] theorem State.setHdr_latch (s : State) (h : HdrRegs) : (s.setHdr h).latch = s.latch := rfl
@[simp] theorem State.setHdr_cmd (s : State) (h : HdrRegs) : (s.setHdr h).cmd = s.cmd := rfl
@[simp] theorem State.setHdr_frameLen (s : State) (h : HdrRegs) : (s.setHdr h).frameLen = s.frameLen := rfl
@[simp] theorem State.setHdr_crcPoly (s : State) (h : HdrRegs) : (s.setHdr h).crcPoly = s.crcPoly := rfl
@[simp] theorem State.setHdr_crcInit (s : State) (h : HdrRegs) : (s.setHdr h).crcInit = s.crcInit := rfl
@[simp] theorem State.setHdr_crcXorout (s : State) (h : HdrRegs) : (s.setHdr h).crcXorout = s.crcXorout := rfl
@[simp] theorem State.setHdr_crcAcc (s : State) (h : HdrRegs) : (s.setHdr h).crcAcc = s.crcAcc := rfl
@[simp] theorem State.setHdr_mfrOut (s : State) (h : HdrRegs) : (s.setHdr h).mfrOut = s.mfrOut := rfl
@[simp] theorem State.setHdr_dateRef (s : State) (h : HdrRegs) : (s.setHdr h).dateRef = s.dateRef := rfl
@[simp] theorem State.setHdr_dateOut (s : State) (h : HdrRegs) : (s.setHdr h).dateOut = s.dateOut := rfl
@[simp] theorem State.setHdr_hdr (s : State) (h : HdrRegs) : (s.setHdr h).hdr = h := rfl
@[simp] theorem State.setHdr_seg (s : State) (h : HdrRegs) : (s.setHdr h).seg = s.seg := rfl
@[simp] theorem State.setHdr_rd (s : State) (h : HdrRegs) : (s.setHdr h).rd = s.rd := rfl
@[simp] theorem State.setHdr_mem (s : State) (h : HdrRegs) : (s.setHdr h).mem = s.mem := rfl
@[simp] theorem State.setHdr_drawEpoch (s : State) (h : HdrRegs) : (s.setHdr h).drawEpoch = s.drawEpoch := rfl
@[simp] theorem State.setHdr_inputs (s : State) (h : HdrRegs) : (s.setHdr h).inputs = s.inputs := rfl
@[simp] theorem State.setHdr_answers (s : State) (h : HdrRegs) : (s.setHdr h).answers = s.answers := rfl

/-! ### State.setSeg -/

@[simp] theorem State.setSeg_ctrl (s : State) (g : SegRegs) : (s.setSeg g).ctrl = s.ctrl := rfl
@[simp] theorem State.setSeg_status (s : State) (g : SegRegs) : (s.setSeg g).status = s.status := rfl
@[simp] theorem State.setSeg_busy (s : State) (g : SegRegs) : (s.setSeg g).busy = s.busy := rfl
@[simp] theorem State.setSeg_latch (s : State) (g : SegRegs) : (s.setSeg g).latch = s.latch := rfl
@[simp] theorem State.setSeg_cmd (s : State) (g : SegRegs) : (s.setSeg g).cmd = s.cmd := rfl
@[simp] theorem State.setSeg_frameLen (s : State) (g : SegRegs) : (s.setSeg g).frameLen = s.frameLen := rfl
@[simp] theorem State.setSeg_crcPoly (s : State) (g : SegRegs) : (s.setSeg g).crcPoly = s.crcPoly := rfl
@[simp] theorem State.setSeg_crcInit (s : State) (g : SegRegs) : (s.setSeg g).crcInit = s.crcInit := rfl
@[simp] theorem State.setSeg_crcXorout (s : State) (g : SegRegs) : (s.setSeg g).crcXorout = s.crcXorout := rfl
@[simp] theorem State.setSeg_crcAcc (s : State) (g : SegRegs) : (s.setSeg g).crcAcc = s.crcAcc := rfl
@[simp] theorem State.setSeg_mfrOut (s : State) (g : SegRegs) : (s.setSeg g).mfrOut = s.mfrOut := rfl
@[simp] theorem State.setSeg_dateRef (s : State) (g : SegRegs) : (s.setSeg g).dateRef = s.dateRef := rfl
@[simp] theorem State.setSeg_dateOut (s : State) (g : SegRegs) : (s.setSeg g).dateOut = s.dateOut := rfl
@[simp] theorem State.setSeg_hdr (s : State) (g : SegRegs) : (s.setSeg g).hdr = s.hdr := rfl
@[simp] theorem State.setSeg_seg (s : State) (g : SegRegs) : (s.setSeg g).seg = g := rfl
@[simp] theorem State.setSeg_rd (s : State) (g : SegRegs) : (s.setSeg g).rd = s.rd := rfl
@[simp] theorem State.setSeg_mem (s : State) (g : SegRegs) : (s.setSeg g).mem = s.mem := rfl
@[simp] theorem State.setSeg_drawEpoch (s : State) (g : SegRegs) : (s.setSeg g).drawEpoch = s.drawEpoch := rfl
@[simp] theorem State.setSeg_inputs (s : State) (g : SegRegs) : (s.setSeg g).inputs = s.inputs := rfl
@[simp] theorem State.setSeg_answers (s : State) (g : SegRegs) : (s.setSeg g).answers = s.answers := rfl

/-! ### State.setRd -/

@[simp] theorem State.setRd_ctrl (s : State) (r : RdRegs) : (s.setRd r).ctrl = s.ctrl := rfl
@[simp] theorem State.setRd_status (s : State) (r : RdRegs) : (s.setRd r).status = s.status := rfl
@[simp] theorem State.setRd_busy (s : State) (r : RdRegs) : (s.setRd r).busy = s.busy := rfl
@[simp] theorem State.setRd_latch (s : State) (r : RdRegs) : (s.setRd r).latch = s.latch := rfl
@[simp] theorem State.setRd_cmd (s : State) (r : RdRegs) : (s.setRd r).cmd = s.cmd := rfl
@[simp] theorem State.setRd_frameLen (s : State) (r : RdRegs) : (s.setRd r).frameLen = s.frameLen := rfl
@[simp] theorem State.setRd_crcPoly (s : State) (r : RdRegs) : (s.setRd r).crcPoly = s.crcPoly := rfl
@[simp] theorem State.setRd_crcInit (s : State) (r : RdRegs) : (s.setRd r).crcInit = s.crcInit := rfl
@[simp] theorem State.setRd_crcXorout (s : State) (r : RdRegs) : (s.setRd r).crcXorout = s.crcXorout := rfl
@[simp] theorem State.setRd_crcAcc (s : State) (r : RdRegs) : (s.setRd r).crcAcc = s.crcAcc := rfl
@[simp] theorem State.setRd_mfrOut (s : State) (r : RdRegs) : (s.setRd r).mfrOut = s.mfrOut := rfl
@[simp] theorem State.setRd_dateRef (s : State) (r : RdRegs) : (s.setRd r).dateRef = s.dateRef := rfl
@[simp] theorem State.setRd_dateOut (s : State) (r : RdRegs) : (s.setRd r).dateOut = s.dateOut := rfl
@[simp] theorem State.setRd_hdr (s : State) (r : RdRegs) : (s.setRd r).hdr = s.hdr := rfl
@[simp] theorem State.setRd_seg (s : State) (r : RdRegs) : (s.setRd r).seg = s.seg := rfl
@[simp] theorem State.setRd_rd (s : State) (r : RdRegs) : (s.setRd r).rd = r := rfl
@[simp] theorem State.setRd_mem (s : State) (r : RdRegs) : (s.setRd r).mem = s.mem := rfl
@[simp] theorem State.setRd_drawEpoch (s : State) (r : RdRegs) : (s.setRd r).drawEpoch = s.drawEpoch := rfl
@[simp] theorem State.setRd_inputs (s : State) (r : RdRegs) : (s.setRd r).inputs = s.inputs := rfl
@[simp] theorem State.setRd_answers (s : State) (r : RdRegs) : (s.setRd r).answers = s.answers := rfl

/-! ### State.setMem -/

@[simp] theorem State.setMem_ctrl (s : State) (m : Memory) : (s.setMem m).ctrl = s.ctrl := rfl
@[simp] theorem State.setMem_status (s : State) (m : Memory) : (s.setMem m).status = s.status := rfl
@[simp] theorem State.setMem_busy (s : State) (m : Memory) : (s.setMem m).busy = s.busy := rfl
@[simp] theorem State.setMem_latch (s : State) (m : Memory) : (s.setMem m).latch = s.latch := rfl
@[simp] theorem State.setMem_cmd (s : State) (m : Memory) : (s.setMem m).cmd = s.cmd := rfl
@[simp] theorem State.setMem_frameLen (s : State) (m : Memory) : (s.setMem m).frameLen = s.frameLen := rfl
@[simp] theorem State.setMem_crcPoly (s : State) (m : Memory) : (s.setMem m).crcPoly = s.crcPoly := rfl
@[simp] theorem State.setMem_crcInit (s : State) (m : Memory) : (s.setMem m).crcInit = s.crcInit := rfl
@[simp] theorem State.setMem_crcXorout (s : State) (m : Memory) : (s.setMem m).crcXorout = s.crcXorout := rfl
@[simp] theorem State.setMem_crcAcc (s : State) (m : Memory) : (s.setMem m).crcAcc = s.crcAcc := rfl
@[simp] theorem State.setMem_mfrOut (s : State) (m : Memory) : (s.setMem m).mfrOut = s.mfrOut := rfl
@[simp] theorem State.setMem_dateRef (s : State) (m : Memory) : (s.setMem m).dateRef = s.dateRef := rfl
@[simp] theorem State.setMem_dateOut (s : State) (m : Memory) : (s.setMem m).dateOut = s.dateOut := rfl
@[simp] theorem State.setMem_hdr (s : State) (m : Memory) : (s.setMem m).hdr = s.hdr := rfl
@[simp] theorem State.setMem_seg (s : State) (m : Memory) : (s.setMem m).seg = s.seg := rfl
@[simp] theorem State.setMem_rd (s : State) (m : Memory) : (s.setMem m).rd = s.rd := rfl
@[simp] theorem State.setMem_mem (s : State) (m : Memory) : (s.setMem m).mem = m := rfl
@[simp] theorem State.setMem_drawEpoch (s : State) (m : Memory) : (s.setMem m).drawEpoch = s.drawEpoch := rfl
@[simp] theorem State.setMem_inputs (s : State) (m : Memory) : (s.setMem m).inputs = s.inputs := rfl
@[simp] theorem State.setMem_answers (s : State) (m : Memory) : (s.setMem m).answers = s.answers := rfl

/-! ### State.issue -/

@[simp] theorem State.issue_ctrl (s : State) (w : Word) : (s.issue w).ctrl = s.ctrl := rfl
@[simp] theorem State.issue_status (s : State) (w : Word) : (s.issue w).status = { s.status with lastop := w.setWidth 8, done := false } := rfl
@[simp] theorem State.issue_busy (s : State) (w : Word) : (s.issue w).busy = true := rfl
@[simp] theorem State.issue_latch (s : State) (w : Word) : (s.issue w).latch = w := rfl
@[simp] theorem State.issue_cmd (s : State) (w : Word) : (s.issue w).cmd = w := rfl
@[simp] theorem State.issue_frameLen (s : State) (w : Word) : (s.issue w).frameLen = s.frameLen := rfl
@[simp] theorem State.issue_crcPoly (s : State) (w : Word) : (s.issue w).crcPoly = s.crcPoly := rfl
@[simp] theorem State.issue_crcInit (s : State) (w : Word) : (s.issue w).crcInit = s.crcInit := rfl
@[simp] theorem State.issue_crcXorout (s : State) (w : Word) : (s.issue w).crcXorout = s.crcXorout := rfl
@[simp] theorem State.issue_crcAcc (s : State) (w : Word) : (s.issue w).crcAcc = s.crcAcc := rfl
@[simp] theorem State.issue_mfrOut (s : State) (w : Word) : (s.issue w).mfrOut = s.mfrOut := rfl
@[simp] theorem State.issue_dateRef (s : State) (w : Word) : (s.issue w).dateRef = s.dateRef := rfl
@[simp] theorem State.issue_dateOut (s : State) (w : Word) : (s.issue w).dateOut = s.dateOut := rfl
@[simp] theorem State.issue_hdr (s : State) (w : Word) : (s.issue w).hdr = s.hdr := rfl
@[simp] theorem State.issue_seg (s : State) (w : Word) : (s.issue w).seg = s.seg := rfl
@[simp] theorem State.issue_rd (s : State) (w : Word) : (s.issue w).rd = s.rd := rfl
@[simp] theorem State.issue_mem (s : State) (w : Word) : (s.issue w).mem = s.mem := rfl
@[simp] theorem State.issue_drawEpoch (s : State) (w : Word) : (s.issue w).drawEpoch = s.drawEpoch := rfl
@[simp] theorem State.issue_inputs (s : State) (w : Word) : (s.issue w).inputs = s.inputs := rfl
@[simp] theorem State.issue_answers (s : State) (w : Word) : (s.issue w).answers = s.answers := rfl

/-! ### State.complete -/

@[simp] theorem State.complete_ctrl (s : State) (e : ErrCode) : (s.complete e).ctrl = s.ctrl := rfl
@[simp] theorem State.complete_status (s : State) (e : ErrCode) : (s.complete e).status = { s.status with err := e, done := true } := rfl
@[simp] theorem State.complete_busy (s : State) (e : ErrCode) : (s.complete e).busy = false := rfl
@[simp] theorem State.complete_latch (s : State) (e : ErrCode) : (s.complete e).latch = s.latch := rfl
@[simp] theorem State.complete_cmd (s : State) (e : ErrCode) : (s.complete e).cmd = s.cmd := rfl
@[simp] theorem State.complete_frameLen (s : State) (e : ErrCode) : (s.complete e).frameLen = s.frameLen := rfl
@[simp] theorem State.complete_crcPoly (s : State) (e : ErrCode) : (s.complete e).crcPoly = s.crcPoly := rfl
@[simp] theorem State.complete_crcInit (s : State) (e : ErrCode) : (s.complete e).crcInit = s.crcInit := rfl
@[simp] theorem State.complete_crcXorout (s : State) (e : ErrCode) : (s.complete e).crcXorout = s.crcXorout := rfl
@[simp] theorem State.complete_crcAcc (s : State) (e : ErrCode) : (s.complete e).crcAcc = s.crcAcc := rfl
@[simp] theorem State.complete_mfrOut (s : State) (e : ErrCode) : (s.complete e).mfrOut = s.mfrOut := rfl
@[simp] theorem State.complete_dateRef (s : State) (e : ErrCode) : (s.complete e).dateRef = s.dateRef := rfl
@[simp] theorem State.complete_dateOut (s : State) (e : ErrCode) : (s.complete e).dateOut = s.dateOut := rfl
@[simp] theorem State.complete_hdr (s : State) (e : ErrCode) : (s.complete e).hdr = s.hdr := rfl
@[simp] theorem State.complete_seg (s : State) (e : ErrCode) : (s.complete e).seg = s.seg := rfl
@[simp] theorem State.complete_rd (s : State) (e : ErrCode) : (s.complete e).rd = s.rd := rfl
@[simp] theorem State.complete_mem (s : State) (e : ErrCode) : (s.complete e).mem = s.mem := rfl
@[simp] theorem State.complete_drawEpoch (s : State) (e : ErrCode) : (s.complete e).drawEpoch = s.drawEpoch := rfl
@[simp] theorem State.complete_inputs (s : State) (e : ErrCode) : (s.complete e).inputs = s.inputs := rfl
@[simp] theorem State.complete_answers (s : State) (e : ErrCode) : (s.complete e).answers = s.answers := rfl

/-! ### State.answer -/

@[simp] theorem State.answer_ctrl (s : State) (a : Answer) : (s.answer a).ctrl = s.ctrl := rfl
@[simp] theorem State.answer_status (s : State) (a : Answer) : (s.answer a).status = s.status := rfl
@[simp] theorem State.answer_busy (s : State) (a : Answer) : (s.answer a).busy = s.busy := rfl
@[simp] theorem State.answer_latch (s : State) (a : Answer) : (s.answer a).latch = s.latch := rfl
@[simp] theorem State.answer_cmd (s : State) (a : Answer) : (s.answer a).cmd = s.cmd := rfl
@[simp] theorem State.answer_frameLen (s : State) (a : Answer) : (s.answer a).frameLen = s.frameLen := rfl
@[simp] theorem State.answer_crcPoly (s : State) (a : Answer) : (s.answer a).crcPoly = s.crcPoly := rfl
@[simp] theorem State.answer_crcInit (s : State) (a : Answer) : (s.answer a).crcInit = s.crcInit := rfl
@[simp] theorem State.answer_crcXorout (s : State) (a : Answer) : (s.answer a).crcXorout = s.crcXorout := rfl
@[simp] theorem State.answer_crcAcc (s : State) (a : Answer) : (s.answer a).crcAcc = s.crcAcc := rfl
@[simp] theorem State.answer_mfrOut (s : State) (a : Answer) : (s.answer a).mfrOut = s.mfrOut := rfl
@[simp] theorem State.answer_dateRef (s : State) (a : Answer) : (s.answer a).dateRef = s.dateRef := rfl
@[simp] theorem State.answer_dateOut (s : State) (a : Answer) : (s.answer a).dateOut = s.dateOut := rfl
@[simp] theorem State.answer_hdr (s : State) (a : Answer) : (s.answer a).hdr = s.hdr := rfl
@[simp] theorem State.answer_seg (s : State) (a : Answer) : (s.answer a).seg = s.seg := rfl
@[simp] theorem State.answer_rd (s : State) (a : Answer) : (s.answer a).rd = s.rd := rfl
@[simp] theorem State.answer_mem (s : State) (a : Answer) : (s.answer a).mem = s.mem := rfl
@[simp] theorem State.answer_drawEpoch (s : State) (a : Answer) : (s.answer a).drawEpoch = s.drawEpoch := rfl
@[simp] theorem State.answer_inputs (s : State) (a : Answer) : (s.answer a).inputs = s.inputs := rfl
@[simp] theorem State.answer_answers (s : State) (a : Answer) : (s.answer a).answers = s.answers ++ [a] := rfl

/-! ### State.platformReset -/

@[simp] theorem State.platformReset_ctrl (s : State) : s.platformReset.ctrl = State.reset.ctrl := rfl
@[simp] theorem State.platformReset_status (s : State) : s.platformReset.status = State.reset.status := rfl
@[simp] theorem State.platformReset_busy (s : State) : s.platformReset.busy = State.reset.busy := rfl
@[simp] theorem State.platformReset_latch (s : State) : s.platformReset.latch = State.reset.latch := rfl
@[simp] theorem State.platformReset_cmd (s : State) : s.platformReset.cmd = State.reset.cmd := rfl
@[simp] theorem State.platformReset_frameLen (s : State) : s.platformReset.frameLen = State.reset.frameLen := rfl
@[simp] theorem State.platformReset_crcPoly (s : State) : s.platformReset.crcPoly = State.reset.crcPoly := rfl
@[simp] theorem State.platformReset_crcInit (s : State) : s.platformReset.crcInit = State.reset.crcInit := rfl
@[simp] theorem State.platformReset_crcXorout (s : State) : s.platformReset.crcXorout = State.reset.crcXorout := rfl
@[simp] theorem State.platformReset_crcAcc (s : State) : s.platformReset.crcAcc = State.reset.crcAcc := rfl
@[simp] theorem State.platformReset_mfrOut (s : State) : s.platformReset.mfrOut = State.reset.mfrOut := rfl
@[simp] theorem State.platformReset_dateRef (s : State) : s.platformReset.dateRef = State.reset.dateRef := rfl
@[simp] theorem State.platformReset_dateOut (s : State) : s.platformReset.dateOut = State.reset.dateOut := rfl
@[simp] theorem State.platformReset_hdr (s : State) : s.platformReset.hdr = State.reset.hdr := rfl
@[simp] theorem State.platformReset_seg (s : State) : s.platformReset.seg = State.reset.seg := rfl
@[simp] theorem State.platformReset_rd (s : State) : s.platformReset.rd = State.reset.rd := rfl
@[simp] theorem State.platformReset_mem (s : State) : s.platformReset.mem = State.reset.mem := rfl
@[simp] theorem State.platformReset_drawEpoch (s : State) : s.platformReset.drawEpoch = s.drawEpoch + 1 := rfl
@[simp] theorem State.platformReset_inputs (s : State) : s.platformReset.inputs = s.inputs := rfl
@[simp] theorem State.platformReset_answers (s : State) : s.platformReset.answers = s.answers := rfl

end Sys2Proof.Machine
end

