-- ==== Sys2Proof/Laws/Memory.lean ====
section
/-! SUPPORT. The memory laws: every operation keeps the canonical form; a read after a write gives the byte written there, and
what was there elsewhere. -/

namespace Sys2Proof.Machine

open Sys2Proof

theorem Memory.wf_iff (m : Memory) : wf m = true ↔ m.Pairwise (fun c d => c.1 < d.1) ∧ ∀ c ∈ m, cellOk c = true := by
  simp [wf]

/-! ### Finding a cell -/

theorem Memory.lookup_mem {m : Memory} {a : Nat} {b : Byte} (h : lookup m a = some b) : (a, b) ∈ m := by
  induction m with
  | nil => simp [lookup] at h
  | cons c m ih =>
    simp only [lookup] at h
    split at h
    · next e => cases h; subst e; exact List.mem_cons_self
    · exact List.mem_cons_of_mem _ (ih h)

theorem Memory.lookup_insert (m : Memory) (a : Nat) (b : Byte) (x : Nat) :
    lookup (insert a b m) x = if x = a then some b else lookup m x := by
  induction m with
  | nil => simp only [insert, lookup, eq_comm]
  | cons c m ih =>
    simp only [insert]
    split
    · simp only [lookup, eq_comm]
    · split
      · next e => subst e; simp only [lookup, eq_comm]; split <;> rfl
      · next hne =>
        simp only [lookup, ih]
        by_cases hc : c.1 = x
        · have hx : ¬ x = a := fun e => hne (e.symm.trans hc.symm)
          rw [if_pos hc, if_neg hx, if_pos hc]
        · rw [if_neg hc, if_neg hc]

theorem Memory.lookup_filter (m : Memory) (p : Nat → Bool) (x : Nat) :
    lookup (m.filter fun c => p c.1) x = if p x then lookup m x else none := by
  induction m with
  | nil => simp [lookup]
  | cons c m ih =>
    by_cases h : p c.1 <;> simp only [List.filter_cons, h, lookup, ih, if_true, Bool.false_eq_true, if_false]
    · by_cases e : c.1 = x
      · subst e; simp [h]
      · simp [e]
    · by_cases e : c.1 = x
      · subst e; simp [h]
      · simp [e]

theorem Memory.lookup_erase (m : Memory) (a x : Nat) : lookup (erase a m) x = if x = a then none else lookup m x := by
  rw [erase, lookup_filter m (fun y => y != a)]
  by_cases h : x = a <;> simp [h]

theorem Memory.lookup_clearPayload (m : Memory) (x : Nat) :
    lookup (clearPayload m) x = if inPayloadBuf x then none else lookup m x := by
  rw [clearPayload, lookup_filter m (fun y => !decide (inPayloadBuf y))]
  by_cases h : inPayloadBuf x <;> simp [h]

/-! ### The canonical form is kept -/

theorem Memory.wf_filter {m : Memory} (h : wf m = true) (p : Host.Cell → Bool) : wf (m.filter p) = true := by
  rw [wf_iff] at h ⊢
  exact ⟨h.1.filter p, fun c hc => h.2 c (List.mem_of_mem_filter hc)⟩

theorem Memory.wf_erase {m : Memory} (h : wf m = true) (a : Nat) : wf (erase a m) = true := wf_filter h _

theorem Memory.wf_clearPayload {m : Memory} (h : wf m = true) : wf (clearPayload m) = true := wf_filter h _

theorem Memory.mem_insert {m : Memory} {a : Nat} {b : Byte} {c : Host.Cell} (h : c ∈ insert a b m) : c = (a, b) ∨ c ∈ m := by
  induction m with
  | nil => simp [insert] at h; exact .inl h
  | cons d m ih =>
    simp only [insert] at h
    split at h
    · simpa using h
    · split at h
      · simp only [List.mem_cons] at h ⊢; tauto
      · simp only [List.mem_cons] at h ⊢
        rcases h with h | h
        · exact .inr (.inl h)
        · exact (ih h).imp id .inr

theorem Memory.pairwise_insert {m : Memory} (h : m.Pairwise fun c d => c.1 < d.1) (a : Nat) (b : Byte) :
    (insert a b m).Pairwise fun c d => c.1 < d.1 := by
  induction m with
  | nil => simp [insert]
  | cons d m ih =>
    have hd := List.pairwise_cons.1 h
    simp only [insert]
    split
    · next lt => exact List.pairwise_cons.2 ⟨fun e he => by
        rcases List.mem_cons.1 he with rfl | he
        · exact lt
        · exact lt.trans (hd.1 e he), h⟩
    · split
      · next eq => exact List.pairwise_cons.2 ⟨fun e he => eq ▸ hd.1 e he, hd.2⟩
      · next nlt neq => exact List.pairwise_cons.2 ⟨fun e he => by
          rcases mem_insert he with rfl | he
          · show d.1 < a
            omega
          · exact hd.1 e he, ih hd.2⟩

theorem Memory.wf_store {m : Memory} (h : wf m = true) (a : Nat) (b : Byte) : wf (store m a b) = true := by
  unfold store
  split
  · next ha =>
    split
    · exact wf_erase h a
    · next hb =>
      rw [wf_iff] at h ⊢
      refine ⟨pairwise_insert h.1 a b, fun c hc => ?_⟩
      rcases mem_insert hc with rfl | hc
      · rcases ha with ha | ha <;> simp [cellOk, ha, hb]
      · exact h.2 c hc
  · exact h

theorem Memory.wf_storeBytes {m : Memory} (h : wf m = true) (a : Nat) (bs : List Byte) : wf (storeBytes m a bs) = true := by
  induction bs generalizing m a with
  | nil => exact h
  | cons b bs ih => exact ih (wf_store h a b) _

theorem Memory.wf_empty : wf [] = true := by decide

/-- The reset state's memory has the canonical form. -/
theorem reset_mem_wf : Memory.wf State.reset.mem = true := Memory.wf_empty

/-! ### Reading after writing -/

theorem readByte_eq (s : State) (a : Nat) :
    s.readByte a = ((Memory.lookup s.mem a).or (Memory.unlisted a)).getD (Config.frameDraw s.drawEpoch (a - 0x400)) := by
  unfold State.readByte unlistedByte
  cases Memory.lookup s.mem a <;> cases Memory.unlisted a <;> rfl

/-- Two states whose cells and draws agree at an offset read the same byte there. -/
theorem readByte_congr {s t : State} {a : Nat} (h : Memory.lookup s.mem a = Memory.lookup t.mem a)
    (hd : s.drawEpoch = t.drawEpoch) : s.readByte a = t.readByte a := by
  rw [readByte_eq, readByte_eq, h, hd]

/-- The byte stored is read back, and every other offset reads as before. -/
theorem readByte_store (s : State) (a : Nat) (b : Byte) (ha : inFrameBuf a ∨ inPayloadBuf a) (x : Nat) :
    (s.setMem (s.mem.store a b)).readByte x = if x = a then b else s.readByte x := by
  simp only [readByte_eq, State.setMem_mem, State.setMem_drawEpoch]
  unfold Memory.store
  rw [if_pos ha]
  by_cases hx : x = a
  · subst hx
    split
    · next hu => simp [Memory.lookup_erase, hu]
    · simp [Memory.lookup_insert]
  · split <;> simp [Memory.lookup_erase, Memory.lookup_insert, hx]

/-- Outside the buffers a store changes nothing. -/
theorem store_outside (m : Memory) (a : Nat) (b : Byte) (ha : ¬(inFrameBuf a ∨ inPayloadBuf a)) : m.store a b = m := by
  unfold Memory.store
  rw [if_neg ha]

/-- Bytes stored in one buffer are read back at ascending offsets, and every other offset reads as before. -/
theorem readByte_storeBytes (s : State) (a : Nat) (bs : List Byte)
    (h : ∀ k, k < bs.length → inFrameBuf (a + k) ∨ inPayloadBuf (a + k)) (x : Nat) :
    (s.setMem (s.mem.storeBytes a bs)).readByte x =
      if a ≤ x then (bs[x - a]?).getD (s.readByte x) else s.readByte x := by
  induction bs generalizing s a with
  | nil => simp [Memory.storeBytes]; rfl
  | cons b bs ih =>
    have h0 : inFrameBuf a ∨ inPayloadBuf a := h 0 (by simp)
    have ih' := ih (s.setMem (s.mem.store a b)) (a + 1) (fun k hk => by
      have := h (k + 1) (by simpa using hk)
      rwa [show a + (k + 1) = a + 1 + k by omega] at this)
    have e : (s.setMem (s.mem.store a b)).setMem ((s.setMem (s.mem.store a b)).mem.storeBytes (a + 1) bs)
        = s.setMem (s.mem.storeBytes a (b :: bs)) := rfl
    rw [e] at ih'
    rw [ih', readByte_store s a b h0]
    by_cases hx : x = a
    · subst hx; simp
    · by_cases hle : a ≤ x
      · have h1 : a + 1 ≤ x := by omega
        have h2 : x - a = (x - (a + 1)) + 1 := by omega
        rw [if_pos h1, if_pos hle, if_neg hx, h2, List.getElem?_cons_succ]
      · have h1 : ¬ a + 1 ≤ x := by omega
        rw [if_neg h1, if_neg hle, if_neg hx]

/-- PAYLOAD_BUF cleared reads 0x00, and every other offset reads as before. -/
theorem readByte_clearPayload (s : State) (x : Nat) :
    (s.setMem s.mem.clearPayload).readByte x = if inPayloadBuf x then 0 else s.readByte x := by
  simp only [readByte_eq, State.setMem_mem, State.setMem_drawEpoch, Memory.lookup_clearPayload]
  by_cases h : inPayloadBuf x
  · have hu : Memory.unlisted x = some 0 := if_pos h
    rw [if_pos h, if_pos h, hu]; rfl
  · rw [if_neg h, if_neg h]

theorem readBytes_length (s : State) (a n : Nat) : (s.readBytes a n).length = n := by
  induction n generalizing a with
  | zero => rfl
  | succ n ih => simp [State.readBytes, ih]

theorem readBytes_getElem? (s : State) (a n k : Nat) :
    (s.readBytes a n)[k]? = if k < n then some (s.readByte (a + k)) else none := by
  induction n generalizing a k with
  | zero => simp [State.readBytes]
  | succ n ih =>
    cases k with
    | zero => simp [State.readBytes]
    | succ k => simp [State.readBytes, ih, Nat.add_assoc, Nat.add_comm 1 k]

theorem readBytes_congr {s t : State} {a n : Nat} (h : ∀ k, k < n → s.readByte (a + k) = t.readByte (a + k)) :
    s.readBytes a n = t.readBytes a n := by
  apply List.ext_getElem?
  intro k
  rw [readBytes_getElem?, readBytes_getElem?]
  by_cases hk : k < n <;> simp [hk, h]

end Sys2Proof.Machine
end

