-- ==== Sys2Proof/Laws/Exec.lean ====
section
/-! SUPPORT. What executing a command can do, said once: every command is an effect and then its completion with a code. -/

namespace Sys2Proof.Machine

open Sys2Proof

theorem succeed_eq (s : State) : succeed s = .next (s.complete .success) := rfl

theorem raiseError_eq (e : ErrCode) (s : State) : raiseError e s = .next (s.complete e) := rfl

theorem finish_eq (r : ErrCode × State) : finish r = .next (r.2.complete r.1) := by
  obtain ⟨e, s⟩ := r
  cases e <;> rfl

/-- The code a command completes with and the state its effects leave before the completion fields are written. -/
def effect : Instr → State → ErrCode × State
  | .nop, s => (.success, s)
  | .crcInit, s => (.success, s.setAcc s.crcInit)
  | .crcByte imm8, s => (.success, s.setAcc (crcStep s.crcPoly s.crcAcc imm8))
  | .crcBuf start len, s =>
    if rangeFits start len then
      (.success, s.setAcc (crcFold s.crcPoly s.crcInit (s.frameBytes start.toNat len.toNat)))
    else (.range, s)
  | .mfrDecode imm16, s => (.success, s.setMfrOut (mfrUnpack imm16))
  | .dateFull imm16 r, s =>
    (.success, if r then (s.setDateOut (fullDate imm16)).setDateRef (fullDate imm16) else s.setDateOut (fullDate imm16))
  | .dateRel imm16, s => (.success, s.setDateOut (relDate imm16 s.dateRef s.ctrl.rollfix))
  | .hdrParse, s => hdrStage s
  | .segment, s => segStage s
  | .appDecode, s => appStage s
  | .frameDecode, s =>
    ((hdrStage s).1.orElse ((segStage (hdrStage s).2).1.orElse (appStage (segStage (hdrStage s).2).2).1),
      (appStage (segStage (hdrStage s).2).2).2)

/-- Executing a command is its effect and its completion: no command stops the machine. -/
theorem exec_eq (i : Instr) (s : State) : exec i s = .next ((effect i s).2.complete (effect i s).1) := by
  cases i with
  | crcBuf start len => simp only [exec, execCrcBuf, effect]; split <;> rfl
  | hdrParse => exact finish_eq _
  | segment => exact finish_eq _
  | appDecode => exact finish_eq _
  | frameDecode => exact finish_eq _
  | _ => rfl

/-- The inversion of exec. -/
theorem exec_next {i : Instr} {s t : State} (h : exec i s = .next t) : t = (effect i s).2.complete (effect i s).1 := by
  rw [exec_eq] at h
  exact (Host.Outcome.next.inj h).symm

/-- The Engine's step is that of the decoded command, or ILLEGAL. -/
theorem engineStep_cases (s : State) :
    (∃ i, decode s.latch = .ok i ∧ engineStep s = exec i s) ∨
    (∃ e, decode s.latch = .error e ∧ engineStep s = .next (s.complete .illegal)) := by
  unfold engineStep
  cases h : decode s.latch with
  | ok i => exact .inl ⟨i, rfl, rfl⟩
  | error e => exact .inr ⟨e, rfl, rfl⟩

/-- What one step can be: idle, the Engine's, or the performance of the oldest input. -/
theorem step_cases {s t : State} (h : step s = .next t) :
    (s.busy = false ∧ s.inputs = [] ∧ t = s) ∨
    (s.busy = true ∧ engineStep s = .next t) ∨
    (∃ i rest, s.inputs = i :: rest ∧ (s.busy = true → i.passesBusy = true) ∧ t = s.takeInput i) := by
  unfold step State.nextMove at h
  cases hin : s.inputs with
  | nil =>
    cases hb : s.busy
    · simp [hin, hb] at h; exact .inl ⟨rfl, rfl, h.symm⟩
    · simp [hin, hb] at h; exact .inr (.inl ⟨rfl, h⟩)
  | cons i rest =>
    rw [hin] at h
    by_cases hc : (s.busy && (!i.passesBusy || Config.engineFirst s)) = true
    · simp only [hc, if_true] at h
      simp only [Bool.and_eq_true] at hc
      exact .inr (.inl ⟨hc.1, h⟩)
    · simp only [hc] at h
      refine .inr (.inr ⟨i, rest, rfl, fun hb => ?_, (Host.Outcome.next.inj h).symm⟩)
      simp only [hb, Bool.true_and, Bool.or_eq_true, Bool.not_eq_true', not_or, Bool.not_eq_false] at hc
      exact hc.1

/-- The step while idle performs the oldest input. -/
theorem step_idle_input {s : State} {i : Input} {rest : List Input} (hb : s.busy = false) (hi : s.inputs = i :: rest) :
    step s = .next (s.takeInput i) := by
  simp [step, State.nextMove, hb, hi]

/-- The step while busy is the Engine's where nothing pending may pass. -/
theorem step_busy_held {s : State} (hb : s.busy = true) (hi : ∀ i, s.inputs.head? = some i → i.passesBusy = false) :
    step s = engineStep s := by
  unfold step State.nextMove
  cases hin : s.inputs with
  | nil => simp [hb]
  | cons i rest => simp [hb, hi i (by simp [hin])]

end Sys2Proof.Machine
end

