-- ==== Sys2Proof/Laws/Frame.lean ====
section
/-! SUPPORT. The stages and the segmentation loop: what each of them can do, said once. -/

namespace Sys2Proof.Machine

open Sys2Proof

/-! ### Stages -/

theorem hdrStage_short {s : State} (h : s.len < 24) : hdrStage s = (.frame, s.setHdr .zero) := if_pos h

theorem hdrStage_full {s : State} (h : 24 ≤ s.len) : hdrStage s = (.success, s.setHdr s.parsedHdr) :=
  if_neg (Nat.not_lt.2 h)

theorem segStage_short {s : State} (h : s.len < 24) :
    segStage s = (.frame, (s.setSeg .zero).setMem s.mem.clearPayload) := if_pos h

theorem segStage_full {s : State} (h : 24 ≤ s.len) :
    segStage s = (.success, (s.setSeg (s.segRegs s.segmentation)).setMem (s.mem.withPayload s.segmentation.payload)) :=
  if_neg (Nat.not_lt.2 h)

theorem appStage_short {s : State} (h : s.payLen < 13) : appStage s = (.payload, s.setRd .zero) := if_pos h

theorem appStage_full {s : State} (h : 13 ≤ s.payLen) :
    appStage s = (.success, (s.setRd s.parsedRd).setDateRef s.lastDate) := if_neg (Nat.not_lt.2 h)

/-- Writing the payload keeps the canonical form. -/
theorem Memory.wf_withPayload {m : Memory} (h : wf m = true) (payload : List Byte) : wf (withPayload m payload) = true :=
  wf_storeBytes (wf_clearPayload h) _ _

/-- After the payload is written, PAYLOAD_BUF holds it with 0x00 behind it, and every other byte is as before. -/
theorem readByte_withPayload (s : State) (payload : List Byte) (h : payload.length ≤ 256) (a : Nat) :
    (s.setMem (s.mem.withPayload payload)).readByte a =
      if inPayloadBuf a then (payload[a - 0x600]?).getD 0 else s.readByte a := by
  have e : s.setMem (s.mem.withPayload payload) =
      (s.setMem s.mem.clearPayload).setMem ((s.setMem s.mem.clearPayload).mem.storeBytes 0x600 payload) := rfl
  rw [e, readByte_storeBytes _ _ _ (fun k hk => .inr ⟨by omega, by omega⟩), readByte_clearPayload]
  by_cases h1 : 0x600 ≤ a
  · rw [if_pos h1]
    by_cases h2 : a < 0x700
    · rw [if_pos ⟨h1, h2⟩, if_pos ⟨h1, h2⟩]
    · rw [if_neg fun x => h2 x.2, if_neg fun x => h2 x.2, List.getElem?_eq_none (by omega)]; rfl
  · rw [if_neg h1, if_neg fun x => h1 x.1, if_neg fun x => h1 x.1]

/-- What the header stage writes. -/
theorem hdrStage_writes (s : State) : (hdrStage s).2 = s.setHdr (hdrStage s).2.hdr := by unfold hdrStage; split <;> rfl

/-- What the segmentation stage writes. -/
theorem segStage_writes (s : State) : (segStage s).2 = (s.setSeg (segStage s).2.seg).setMem (segStage s).2.mem := by
  unfold segStage; split <;> rfl

/-- What the payload stage writes. -/
theorem appStage_writes (s : State) :
    (appStage s).2 = (s.setRd (appStage s).2.rd).setDateRef (appStage s).2.dateRef := by unfold appStage; split <;> rfl

theorem hdrStage_code (s : State) : (hdrStage s).1 = if s.len < 24 then .frame else .success := by
  unfold hdrStage; split <;> rfl

theorem segStage_code (s : State) : (segStage s).1 = if s.len < 24 then .frame else .success := by
  unfold segStage; split <;> rfl

theorem appStage_code (s : State) : (appStage s).1 = if s.payLen < 13 then .payload else .success := by
  unfold appStage; split <;> rfl

/-! ### The segmentation loop -/

/-- What the loop gives from `pos` with `rem` declared bytes left: block i lies at `pos + 18 i` with `min 16 (rem - 16 i)` data
bytes, fits below LEN, and the loop ends where the declared bytes end, the next block does not fit, or the fuel is out. -/
theorem segLoop_spec (s : State) (fuel pos rem : Nat) :
    (s.segLoop fuel pos rem).blocks.length ≤ fuel ∧
    (∀ i b, (s.segLoop fuel pos rem).blocks[i]? = some b →
      b = s.blockAt (pos + 18 * i) (min 16 (rem - 16 * i)) ∧ 16 * i < rem ∧
        pos + 18 * i + min 16 (rem - 16 * i) + 2 ≤ s.len) ∧
    (s.segLoop fuel pos rem).endOff =
      pos + min rem (16 * (s.segLoop fuel pos rem).blocks.length) + 2 * (s.segLoop fuel pos rem).blocks.length ∧
    ((s.segLoop fuel pos rem).trunc = true →
      16 * (s.segLoop fuel pos rem).blocks.length < rem ∧
      s.len < pos + 18 * (s.segLoop fuel pos rem).blocks.length
        + min 16 (rem - 16 * (s.segLoop fuel pos rem).blocks.length) + 2) ∧
    ((s.segLoop fuel pos rem).trunc = false →
      rem ≤ 16 * (s.segLoop fuel pos rem).blocks.length ∨ (s.segLoop fuel pos rem).blocks.length = fuel) ∧
    ((s.segLoop fuel pos rem).blocks.length ≠ 0 → 16 * ((s.segLoop fuel pos rem).blocks.length - 1) < rem) := by
  induction fuel generalizing pos rem with
  | zero => simp [State.segLoop]
  | succ fuel ih =>
    unfold State.segLoop
    by_cases h0 : rem = 0
    · subst h0; simp
    · rw [if_neg h0]
      by_cases hfit : s.len < pos + min 16 rem + 2
      · simp only [hfit, if_true]
        refine ⟨by simp, by simp, by simp, fun _ => ?_, by simp, by simp⟩
        simp only [List.length_nil, Nat.mul_zero, Nat.sub_zero, Nat.add_zero]
        omega
      · simp only [hfit, if_false]
        obtain ⟨h1, h2, h3, h4, h5, h6⟩ := ih (pos + min 16 rem + 2) (rem - min 16 rem)
        generalize hg : s.segLoop fuel (pos + min 16 rem + 2) (rem - min 16 rem) = g at h1 h2 h3 h4 h5 h6 ⊢
        simp only [List.length_cons]
        -- a further block exists only after a block of 16 bytes
        have hmin : rem ≤ 16 → g.blocks.length = 0 := fun hle => by
          by_contra hne
          have := h6 hne
          omega
        refine ⟨by omega, ?_, ?_, fun ht => ?_, fun ht => ?_, fun _ => ?_⟩
        · intro i b hb
          cases i with
          | zero =>
            simp only [List.getElem?_cons_zero, Option.some.injEq] at hb
            subst hb
            refine ⟨by simp, by omega, by simp; omega⟩
          | succ i =>
            simp only [List.getElem?_cons_succ] at hb
            obtain ⟨e, hlt, hle⟩ := h2 i b hb
            have hpos : pos + min 16 rem + 2 + 18 * i = pos + 18 * (i + 1) := by omega
            have hsz : rem - min 16 rem - 16 * i = rem - 16 * (i + 1) := by omega
            rw [hpos, hsz] at e hle
            exact ⟨e, by omega, hle⟩
        · rw [h3]
          by_cases hle : rem ≤ 16
          · rw [hmin hle]; omega
          · omega
        · have := h4 ht; omega
        · rcases h5 ht with h | h <;> omega
        · by_cases hle : rem ≤ 16
          · rw [hmin hle]; omega
          · by_cases hz : g.blocks.length = 0
            · omega
            · have := h6 hz; omega

/-- Data byte j of the telegram lies after j data bytes and two checksum bytes for each full block before it. -/
theorem segLoop_dataBytes (s : State) (fuel pos rem j : Nat) :
    (s.segLoop fuel pos rem).dataBytes[j]? =
      if j < min rem (16 * (s.segLoop fuel pos rem).blocks.length) then some (s.fb (pos + j + 2 * (j / 16))) else none := by
  induction fuel generalizing pos rem j with
  | zero => simp [State.segLoop, Segmentation.dataBytes]
  | succ fuel ih =>
    obtain ⟨-, -, -, -, -, h6⟩ := segLoop_spec s fuel (pos + min 16 rem + 2) (rem - min 16 rem)
    have ih' := ih (pos + min 16 rem + 2) (rem - min 16 rem)
    unfold State.segLoop
    by_cases h0 : rem = 0
    · subst h0; simp [Segmentation.dataBytes]
    · rw [if_neg h0]
      by_cases hfit : s.len < pos + min 16 rem + 2
      · simp [hfit, Segmentation.dataBytes]
      · simp only [hfit, if_false]
        generalize s.segLoop fuel (pos + min 16 rem + 2) (rem - min 16 rem) = g at h6 ih' ⊢
        have hmin : rem ≤ 16 → g.blocks.length = 0 := fun hle => by
          by_contra hne
          have := h6 hne
          omega
        simp only [Segmentation.dataBytes, List.flatMap_cons, List.length_cons] at ih' ⊢
        have hlen : (s.blockAt pos (min 16 rem)).bytes.length = min 16 rem := readBytes_length _ _ _
        by_cases hj : j < min 16 rem
        · rw [List.getElem?_append_left (by omega)]
          have hb : (s.blockAt pos (min 16 rem)).bytes[j]? = some (s.fb (pos + j)) := by
            simp only [State.blockAt, State.frameBytes, readBytes_getElem?, hj, if_true, State.fb]
            rw [Nat.add_assoc]
          rw [hb, if_pos (by omega), show j / 16 = 0 by omega]
          simp
        · rw [List.getElem?_append_right (by omega), hlen, ih']
          by_cases hle : rem ≤ 16
          · have hz := hmin hle
            rw [if_neg (by omega), if_neg (by omega)]
          · have h16 : min 16 rem = 16 := by omega
            rw [h16] at hj ⊢
            by_cases hc : j < min rem (16 * (g.blocks.length + 1))
            · rw [if_pos (by omega), if_pos hc]
              congr 2
              have : j / 16 = (j - 16) / 16 + 1 := by omega
              omega
            · rw [if_neg (by omega), if_neg hc]

theorem segLoop_dataBytes_length (s : State) (fuel pos rem : Nat) :
    (s.segLoop fuel pos rem).dataBytes.length = min rem (16 * (s.segLoop fuel pos rem).blocks.length) := by
  apply Nat.le_antisymm
  · by_contra h
    have := segLoop_dataBytes s fuel pos rem (min rem (16 * (s.segLoop fuel pos rem).blocks.length))
    rw [if_neg (by omega), List.getElem?_eq_none_iff] at this
    omega
  · by_contra h
    have := segLoop_dataBytes s fuel pos rem (s.segLoop fuel pos rem).dataBytes.length
    rw [if_pos (by omega)] at this
    simp at this

/-- The loop reads only the configuration, LEN and FRAME_BUF below LEN. -/
theorem segLoop_congr {s t : State} (hl : t.len = s.len) (hb : ∀ k, k < s.len → k < 512 → t.fb k = s.fb k)
    (hc : ∀ bs p q, t.checkPair bs p q = s.checkPair bs p q) (fuel pos rem : Nat) (hr : pos + 18 * fuel ≤ 510) :
    t.segLoop fuel pos rem = s.segLoop fuel pos rem := by
  induction fuel generalizing pos rem with
  | zero => rfl
  | succ fuel ih =>
    unfold State.segLoop
    rw [hl]
    by_cases h0 : rem = 0
    · simp [h0]
    · rw [if_neg h0, if_neg h0]
      by_cases hfit : s.len < pos + min 16 rem + 2
      · simp [hfit]
      · simp only [hfit, if_false]
        have e : t.frameBytes pos (min 16 rem) = s.frameBytes pos (min 16 rem) :=
          readBytes_congr fun k hk => by
            rw [Nat.add_assoc]
            exact hb (pos + k) (by omega) (by omega)
        have eb : t.blockAt pos (min 16 rem) = s.blockAt pos (min 16 rem) := by
          simp only [State.blockAt, e, hc]
          rw [hb (pos + min 16 rem) (by omega) (by omega), hb (pos + min 16 rem + 1) (by omega) (by omega)]
        rw [ih (pos + min 16 rem + 2) (rem - min 16 rem) (by omega), eb]

/-- The entry of a register array is that of the block found, or zero. -/
theorem blockTable_get {α : Type} (zero : α) (f : Block → α) (blocks : List Block) (i : Fin 16) :
    (blockTable zero f blocks)[i] = ((blocks[i.val]?).map f).getD zero := by
  simp only [blockTable, Fin.getElem_fin, Vector.getElem_ofFn]

/-- Bit i of the flags is the i-th flag. -/
theorem flagBits_testBit (bs : List Bool) (i : Nat) : (flagBits bs).testBit i = (bs[i]?).getD false := by
  induction bs generalizing i with
  | nil => simp [flagBits]
  | cons b bs ih =>
    cases i with
    | zero => cases b <;> simp [flagBits, Nat.testBit_zero, Nat.add_mul_mod_self_left]
    | succ i =>
      have h : (b.toNat + 2 * flagBits bs) / 2 = flagBits bs := by cases b <;> (simp; try omega)
      rw [flagBits, Nat.testBit_succ, h, ih]
      simp

end Sys2Proof.Machine
end

