-- ==== Sys2Proof/Laws/PerInstr.lean ====
section
/-! SUPPORT. The family OpField: the OP field of each command's encoding is the one the opcode map assigns (30_encoding R101,
R108), so no operand reaches into it. -/

namespace Sys2Proof.Laws.OpField

open Sys2Proof

/-- The OP of a command (30_encoding R108). -/
def opOf : Instr → Byte
  | .nop => 0x00
  | .crcInit => 0x01
  | .crcByte _ => 0x02
  | .crcBuf _ _ => 0x03
  | .mfrDecode _ => 0x10
  | .dateFull _ _ => 0x20
  | .dateRel _ => 0x21
  | .hdrParse => 0x30
  | .segment => 0x31
  | .appDecode => 0x32
  | .frameDecode => 0x3F

/-- The encoding of `i` has the OP of `i`. -/
def Statement (i : Instr) : Prop := fieldOp (encode i) = opOf i

theorem fieldOp_or (w v : Word) : fieldOp (w ||| v) = fieldOp w ||| fieldOp v := by
  simp [fieldOp, BitVec.extractLsb'_or]

/-- An operand placed from bit 8 on is not in the OP field. -/
theorem fieldOp_operandAt {n : Nat} (v : BitVec n) {k : Nat} (hk : 8 ≤ k) : fieldOp (operandAt v k) = 0 := by
  apply BitVec.eq_of_getLsbD_eq
  intro i hi
  simp [fieldOp, operandAt, BitVec.getLsbD_shiftLeft, show i < k by omega]

theorem nop : Statement .nop := rfl

theorem crcInit : Statement .crcInit := rfl

theorem crcByte (imm8 : Byte) : Statement (.crcByte imm8) := by
  simp only [Statement, encode, fieldOp_or, fieldOp_operandAt _ (show 8 ≤ 8 by decide)]; rfl

theorem crcBuf (start : BitVec 9) (len : BitVec 10) : Statement (.crcBuf start len) := by
  simp only [Statement, encode, fieldOp_or, fieldOp_operandAt _ (show 8 ≤ 8 by decide),
    fieldOp_operandAt _ (show 8 ≤ 17 by decide)]
  rfl

theorem mfrDecode (imm16 : Half) : Statement (.mfrDecode imm16) := by
  simp only [Statement, encode, fieldOp_or, fieldOp_operandAt _ (show 8 ≤ 8 by decide)]; rfl

theorem dateFull (imm16 : Half) (r : Bool) : Statement (.dateFull imm16 r) := by
  simp only [Statement, encode, fieldOp_or, fieldOp_operandAt _ (show 8 ≤ 8 by decide),
    fieldOp_operandAt _ (show 8 ≤ 24 by decide)]
  rfl

theorem dateRel (imm16 : Half) : Statement (.dateRel imm16) := by
  simp only [Statement, encode, fieldOp_or, fieldOp_operandAt _ (show 8 ≤ 8 by decide)]; rfl

theorem hdrParse : Statement .hdrParse := rfl

theorem segment : Statement .segment := rfl

theorem appDecode : Statement .appDecode := rfl

theorem frameDecode : Statement .frameDecode := rfl

end Sys2Proof.Laws.OpField
end

