-- ==== Sys2Proof/Laws/Words.lean ====
section
/-! SUPPORT. The numbers of words: what fields placed in a register, byte pairs and byte lists are as numbers, and the bytes of
a written value. -/

namespace Sys2Proof.Machine

open Sys2Proof

/-- Fields that do not overlap add up. -/
theorem or_shifted (a b k : Nat) (h : a < 2 ^ k) : a ||| (b * 2 ^ k) = a + 2 ^ k * b := by
  rw [Nat.mul_comm, Nat.or_comm, ← Nat.two_pow_add_eq_or_of_lt h, Nat.add_comm]

theorem place_toNat {n : Nat} (v : BitVec n) (k : Nat) (h : n + k ≤ 32) : (place v k).toNat = v.toNat * 2 ^ k := by
  have hv := v.isLt
  have h1 : v.toNat * 2 ^ k < 2 ^ 32 :=
    calc v.toNat * 2 ^ k < 2 ^ n * 2 ^ k := Nat.mul_lt_mul_of_pos_right hv (Nat.two_pow_pos k)
      _ = 2 ^ (n + k) := (Nat.pow_add 2 n k).symm
      _ ≤ 2 ^ 32 := Nat.pow_le_pow_right (by decide) h
  have h2 : v.toNat < 2 ^ 32 := lt_of_lt_of_le hv (Nat.pow_le_pow_right (by decide) (by omega))
  simp only [place, BitVec.toNat_shiftLeft, BitVec.toNat_setWidth, Nat.shiftLeft_eq, Nat.mod_eq_of_lt h2, Nat.mod_eq_of_lt h1]

theorem le16_toNat (p q : Byte) : (le16 p q).toNat = p.toNat + 2 ^ 8 * q.toNat := by
  have h1 := p.isLt
  have h2 := q.isLt
  simp only [le16, BitVec.toNat_or, BitVec.toNat_shiftLeft, BitVec.toNat_setWidth, Nat.shiftLeft_eq]
  rw [Nat.mod_eq_of_lt (show p.toNat < 2 ^ 16 by omega), Nat.mod_eq_of_lt (show q.toNat < 2 ^ 16 by omega),
    Nat.mod_eq_of_lt (show q.toNat * 2 ^ 8 < 2 ^ 16 by omega), or_shifted _ _ 8 (by omega)]

theorem be16_eq_le16 (p q : Byte) : be16 p q = le16 q p := BitVec.or_comm _ _

theorem halvesWord_toNat (lo hi : Half) : (halvesWord lo hi).toNat = lo.toNat + 2 ^ 16 * hi.toNat := by
  have := lo.isLt
  simp only [halvesWord, BitVec.toNat_or]
  rw [place_toNat _ _ (by decide), place_toNat _ _ (by decide), or_shifted _ _ 16 (by omega)]
  omega

theorem MfrChars.word_toNat (m : MfrChars) : m.word.toNat = m.c0.toNat + 2 ^ 8 * m.c1.toNat + 2 ^ 16 * m.c2.toNat := by
  have h0 := m.c0.isLt
  have h1 := m.c1.isLt
  simp only [MfrChars.word, BitVec.toNat_or]
  rw [place_toNat _ _ (by decide), place_toNat _ _ (by decide), place_toNat _ _ (by decide), or_shifted _ _ 8 (by omega),
    or_shifted _ _ 16 (by omega)]
  omega

theorem placeBit_toNat (b : Bool) (k : Nat) (h : k < 32) : (placeBit b k).toNat = b.toNat * 2 ^ k := by
  rw [placeBit, place_toNat _ _ (by omega), BitVec.toNat_ofBool]

/-- The number of a date record's word (10_state R34). -/
theorem DateRecord.word_toNat (d : DateRecord) :
    d.word.toNat = d.year.toNat + 2 ^ 16 * d.month.toNat + 2 ^ 24 * d.day.toNat + 2 ^ 31 * d.v.toNat := by
  have h1 := d.year.isLt
  have h2 := d.month.isLt
  have h3 := d.day.isLt
  simp only [DateRecord.word, BitVec.toNat_or]
  rw [place_toNat _ _ (by decide), place_toNat _ _ (by decide), place_toNat _ _ (by decide), placeBit_toNat _ _ (by decide),
    or_shifted _ _ 16 (by omega), or_shifted _ _ 24 (by omega), or_shifted _ _ 31 (by omega)]
  omega

/-- The number of BLK_INFO's word (10_state R47). -/
theorem BlkInfo.word_toNat (b : BlkInfo) :
    b.word.toNat = b.off.toNat + 2 ^ 16 * b.size.toNat + 2 ^ 24 * b.ok.toNat + 2 ^ 25 * b.present.toNat := by
  have h1 := b.off.isLt
  have h2 := b.size.isLt
  have h3 := b.ok.toNat_lt
  simp only [BlkInfo.word, BitVec.toNat_or]
  rw [place_toNat _ _ (by decide), place_toNat _ _ (by decide), placeBit_toNat _ _ (by decide), placeBit_toNat _ _ (by decide),
    or_shifted _ _ 16 (by omega), or_shifted _ _ 24 (by omega), or_shifted _ _ 25 (by omega)]
  omega

/-- The number of SEG_STAT's word (10_state R43). -/
theorem SegRegs.statWord_toNat (g : SegRegs) :
    g.statWord.toNat =
      g.nblk.toNat + 2 ^ 8 * g.trunc.toNat + 2 ^ 9 * g.lshort.toNat + 2 ^ 10 * g.allOk.toNat + 2 ^ 16 * g.blkOk.toNat := by
  have h1 := g.nblk.isLt
  have h2 := g.trunc.toNat_lt
  have h3 := g.lshort.toNat_lt
  have h4 := g.allOk.toNat_lt
  simp only [SegRegs.statWord, BitVec.toNat_or]
  rw [place_toNat _ _ (by decide), placeBit_toNat _ _ (by decide), placeBit_toNat _ _ (by decide),
    placeBit_toNat _ _ (by decide), place_toNat _ _ (by decide), or_shifted _ _ 8 (by omega), or_shifted _ _ 9 (by omega),
    or_shifted _ _ 10 (by omega), or_shifted _ _ 16 (by omega)]
  omega

/-- The number of SEG_CI's word (10_state R45). -/
theorem readReg_segCi_toNat (s : State) :
    (s.readReg .segCi).toNat = s.seg.ci.toNat + 2 ^ 8 * s.seg.ciP.toNat + 2 ^ 16 * s.seg.payLen.toNat := by
  have h1 := s.seg.ci.isLt
  have h2 := s.seg.ciP.toNat_lt
  simp only [State.readReg, BitVec.toNat_or]
  rw [place_toNat _ _ (by decide), placeBit_toNat _ _ (by decide), place_toNat _ _ (by decide), or_shifted _ _ 8 (by omega),
    or_shifted _ _ 16 (by omega)]
  omega

/-- The number of SEG_TAIL's word (10_state R46). -/
theorem readReg_segTail_toNat (s : State) :
    (s.readReg .segTail).toNat = s.seg.endOff.toNat + 2 ^ 16 * s.seg.tailLen.toNat := by
  have h1 := s.seg.endOff.isLt
  simp only [State.readReg, BitVec.toNat_or]
  rw [place_toNat _ _ (by decide), place_toNat _ _ (by decide), or_shifted _ _ 16 (by omega)]
  omega

/-- A list of at most four bytes as a word: the first byte and 256 times the rest. -/
theorem leWord_cons_toNat (b : Byte) (bs : List Byte) (h : (leWord bs).toNat < 2 ^ 24) :
    (leWord (b :: bs)).toNat = b.toNat + 2 ^ 8 * (leWord bs).toNat := by
  have h1 := b.isLt
  simp only [leWord, BitVec.toNat_or, BitVec.toNat_shiftLeft, BitVec.toNat_setWidth, Nat.shiftLeft_eq]
  rw [Nat.mod_eq_of_lt (show b.toNat < 2 ^ 32 by omega), Nat.mod_eq_of_lt (show (leWord bs).toNat * 2 ^ 8 < 2 ^ 32 by omega),
    or_shifted _ _ 8 (by omega)]

theorem leWord_lt (bs : List Byte) (h : bs.length ≤ 4) : (leWord bs).toNat < 2 ^ (8 * bs.length) := by
  induction bs with
  | nil => simp [leWord]
  | cons b bs ih =>
    have hl : bs.length ≤ 3 := Nat.le_of_succ_le_succ h
    have i := ih (by omega)
    rw [leWord_cons_toNat b bs (lt_of_lt_of_le i (Nat.pow_le_pow_right (by decide) (by omega))), List.length_cons,
      Nat.mul_add, Nat.pow_add]
    have := b.isLt
    omega

theorem leBytes_length (n : Nat) (v : Word) : (leBytes n v).length = n := by
  induction n generalizing v with
  | zero => rfl
  | succ n ih => simp [leBytes, ih]

/-- Byte k of a written value. -/
theorem leBytes_getElem? (n : Nat) (v : Word) (k : Nat) :
    (leBytes n v)[k]? = if k < n then some ((v >>> (8 * k)).setWidth 8) else none := by
  induction n generalizing v k with
  | zero => simp [leBytes]
  | succ n ih =>
    cases k with
    | zero => simp [leBytes]
    | succ k =>
      simp only [leBytes, List.getElem?_cons_succ, ih, Nat.add_lt_add_iff_right]
      rw [← BitVec.shiftRight_add, show 8 + 8 * k = 8 * (k + 1) by omega]

theorem bitsAt_eq (f : Half) (lo n : Nat) : bitsAt f lo n = f.toNat / 2 ^ lo % 2 ^ n := by
  simp [bitsAt, BitVec.extractLsb'_toNat, Nat.shiftRight_eq_div_pow]

end Sys2Proof.Machine
end

