-- ==== Sys2Proof/Machine/Assembler.lean ====
section
/-! DEFINITION. The assembler's text (30_encoding R112): one command per line, the mnemonic, then its operands separated by
commas, each a decimal number or a hexadecimal one after 0x. Blanks, the case of hexadecimal digits and comments are the
model's (DESIGN CHOICE, assumption log 14). A text is a list of characters. -/

namespace Sys2Proof.Machine

open Sys2Proof

/-- A blank or a tab. -/
def isBlank (c : Char) : Bool := c == ' ' || c == '\t'

/-- What stands before a comment. -/
def beforeComment (text : List Char) : List Char := text.takeWhile fun c => c != ';'

/-- A text without the blanks at its ends. -/
def trimBlanks (text : List Char) : List Char := ((text.dropWhile isBlank).reverse.dropWhile isBlank).reverse

/-- The parts between commas. -/
def commaParts : List Char → List (List Char)
  | [] => [[]]
  | c :: cs =>
    if c = ',' then [] :: commaParts cs
    else
      match commaParts cs with
      | [] => [[c]]
      | p :: ps => (c :: p) :: ps

/-- The value of a digit of either case, if the base has it. -/
def digitValue? (base : Nat) (c : Char) : Option Nat :=
  let n := c.toNat
  let v :=
    if 0x30 ≤ n ∧ n ≤ 0x39 then n - 0x30
    else if 0x41 ≤ n ∧ n ≤ 0x46 then n - 0x41 + 10
    else if 0x61 ≤ n ∧ n ≤ 0x66 then n - 0x61 + 10
    else base
  if v < base then some v else none

/-- The number of a run of digits, the most significant first, continuing from `acc`. -/
def digitsFrom (base acc : Nat) : List Char → Option Nat
  | [] => some acc
  | c :: cs =>
    match digitValue? base c with
    | some v => digitsFrom base (base * acc + v) cs
    | none => none

/-- A number: decimal, or hexadecimal after the prefix 0x; at least one digit (R112). -/
def number? : List Char → Option Nat
  | '0' :: 'x' :: c :: cs => digitsFrom 16 0 (c :: cs)
  | c :: cs => digitsFrom 10 0 (c :: cs)
  | [] => none

/-- A command without an operand. -/
def bareLine (line : AsmLine) : List (List Char) → Option AsmLine
  | [] => some line
  | _ => none

/-- A command with one number. -/
def oneNumber (line : Nat → AsmLine) : List (List Char) → Option AsmLine
  | [p] => (number? p).map line
  | _ => none

/-- A command with two numbers. -/
def twoNumbers (line : Nat → Nat → AsmLine) : List (List Char) → Option AsmLine
  | [p, q] => (number? p).bind fun m => (number? q).map (line m)
  | _ => none

/-- DATE_FULL's operands: one number, or one number and the flag R. -/
def dateFullLine : List (List Char) → Option AsmLine
  | [p] => (number? p).map fun m => .dateFull m false
  | [p, ['R']] => (number? p).map fun m => .dateFull m true
  | _ => none

/-- The mnemonics and how each reads its operands (R112). -/
def mnemonicTable : List (List Char × (List (List Char) → Option AsmLine)) :=
  [ ("NOP".toList, bareLine .nop),
    ("CRC_INIT".toList, bareLine .crcInit),
    ("CRC_BYTE".toList, oneNumber .crcByte),
    ("CRC_BUF".toList, twoNumbers .crcBuf),
    ("MFR_DECODE".toList, oneNumber .mfrDecode),
    ("DATE_FULL".toList, dateFullLine),
    ("DATE_REL".toList, oneNumber .dateRel),
    ("HDR_PARSE".toList, bareLine .hdrParse),
    ("SEGMENT".toList, bareLine .segment),
    ("APP_DECODE".toList, bareLine .appDecode),
    ("FRAME_DECODE".toList, bareLine .frameDecode) ]

/-- The operand texts behind the mnemonic: none where nothing stands there. -/
def operandParts (text : List Char) : List (List Char) :=
  match trimBlanks text with
  | [] => []
  | c :: cs => (commaParts (c :: cs)).map trimBlanks

/-- The line a text is, if it is one (R112). -/
def parseLine (text : List Char) : Option AsmLine :=
  let line := trimBlanks (beforeComment text)
  let mnemonic := line.takeWhile fun c => !isBlank c
  match mnemonicTable.find? fun row => row.1 == mnemonic with
  | some row => row.2 (operandParts (line.drop mnemonic.length))
  | none => none

/-- The command a text assembles to; none for a text that is no line and for an operand too large for its field (R112). -/
def assemble (text : List Char) : Option Instr := (parseLine text).bind AsmLine.instr?

end Sys2Proof.Machine
end

