-- ==== Sys2Proof/Tests/Slice0.lean ====
section
/-! SUPPORT. Tests on the spec's own vectors (95_test_vectors; each names its vector), words written out field by field from
30_encoding, ill-formed assembler lines, and for every obligation with hypotheses a witness that meets them. -/

namespace Sys2Proof.Tests

-- one theorem at a time: many waiting kernel evaluations would each hold a thread
set_option Elab.async false

open Sys2Proof Sys2Proof.Machine

/-! ### Helpers -/

/-- The reset state with a telegram loaded: its bytes from FB[0] on, FRAME_LEN their number (30_encoding R113 LOAD). -/
def holding (bytes : List Byte) : State :=
  { State.reset with mem := Memory.storeBytes [] 0x400 bytes, frameLen := BitVec.ofNat 10 bytes.length }

/-- The reset state with inputs presented. -/
def presented (inputs : List Input) : State := { State.reset with inputs := inputs }

/-- The reset state with a command issued and inputs presented behind it. -/
def busyWith (w : Word) (inputs : List Input) : State := { State.reset.issue w with inputs := inputs }

/-- What `f` sees after one step. -/
def afterStep {α : Type} (s : State) (f : State → α) : Option α :=
  match step s with
  | .next t => some (f t)
  | .fault _ => none
  | .refused _ => none

/-- The words of `regs` after the command word `w` has been issued and run. -/
def ran (w : Word) (s : State) (regs : List Reg) : Option (List Word) :=
  afterStep (s.withFetchWord 32 w.toNat) fun t => regs.map t.readReg

/-- The answer to one access presented to the idle reset state. -/
def answerTo (a : Input) : Option (List Answer) := afterStep (presented [a]) State.answers

/-- The header of T1 (95_test_vectors 2.4), 12 bytes. -/
def headerT1 : List Byte := [0x18, 0x44, 0x2D, 0x2C, 0x78, 0x56, 0x34, 0x12, 0x01, 0x07, 0x7F, 0x0E]

/-- T1, 29 bytes. -/
def telegramT1 : List Byte := headerT1 ++
  [0x78, 0x00, 0x9F, 0x27, 0xD2, 0x04, 0xF0, 0x06, 0x14, 0x05, 0x66, 0x08, 0xBC, 0x07, 0xAA, 0xFA, 0xD4]

/-- T1 with byte 20 changed from 14 to 15 (vector F3). -/
def telegramT1' : List Byte := telegramT1.set 20 0x15

/-- T2 cut to its first 33 bytes (vector F7). -/
def telegramT2cut : List Byte :=
  [0x1D, 0x44, 0x68, 0x50, 0x21, 0x43, 0x65, 0x87, 0x02, 0x04, 0x8C, 0x5B] ++
  [0x78, 0x10, 0x9F, 0x27, 0xD2, 0x04, 0xF0, 0x06, 0x14, 0x05, 0x66, 0x08, 0xBC, 0x07, 0x01, 0x02, 0xA1, 0xEE] ++
  [0x03, 0x04, 0x05]

/-- The L = 0A telegram, N = 1 (vector F9). -/
def telegramN1 : List Byte :=
  [0x0A, 0x44, 0x2D, 0x2C, 0x78, 0x56, 0x34, 0x12, 0x01, 0x07, 0xF6, 0xB7, 0x78, 0xC8, 0xA8] ++ List.replicate 9 0

/-- The L = 05 telegram (vector F8). -/
def telegramL5 : List Byte :=
  [0x05, 0x44, 0x2D, 0x2C, 0x78, 0x56, 0x34, 0x12, 0x01, 0x07, 0xB5, 0xB3] ++ List.replicate 12 0

/-- The state of vector F1 after FRAME_DECODE's first two stages, so far as APP_DECODE reads it: PAYLOAD_BUF and PAY_LEN. -/
def holdingPayload (bytes : List Byte) : State :=
  { State.reset with
    mem := Memory.storeBytes [] 0x600 bytes, seg := { SegRegs.zero with payLen := BitVec.ofNat 8 bytes.length } }

/-- The payload of T1. -/
def payloadT1 : List Byte := (telegramT1.drop 13).take 14

/-- A state whose DATE_REF is the record of a word, with a ROLLFIX. -/
def referring (w : Word) (rollfix : Bool) : State :=
  { State.reset with dateRef := DateRecord.ofWord w, ctrl := ⟨false, rollfix, true⟩ }

/-! ### Well-formedness: an ill-formed line for each check (30_encoding R112) -/

theorem test_ill_crcByte : (AsmLine.crcByte 256).instr? = none := by decide
theorem test_ill_crcBuf_start : (AsmLine.crcBuf 512 0).instr? = none := by decide
theorem test_ill_crcBuf_len : (AsmLine.crcBuf 0 1024).instr? = none := by decide
theorem test_ill_mfrDecode : (AsmLine.mfrDecode 65536).instr? = none := by decide
theorem test_ill_dateFull : (AsmLine.dateFull 65536 false).instr? = none := by decide
theorem test_ill_dateRel : (AsmLine.dateRel 65536).instr? = none := by decide
theorem test_well_crcBuf : (AsmLine.crcBuf 511 1023).instr? = some (.crcBuf 511 1023) := by decide

/-- Assembler texts (30_encoding R112, programs P1, P2 and P4). -/
theorem test_assemble :
    assemble "        CRC_BUF 12, 15      ; 0x001E_0C03".toList = some (.crcBuf 12 15) ∧
    assemble "DATE_FULL 0x279F, R".toList = some (.dateFull 0x279F true) ∧ assemble "NOP".toList = some .nop := by
  decide +kernel

/-- Texts that are no line, and an assembly error. -/
theorem test_assemble_errors :
    ["CRC_BYTE", "NOP 1", "CRC_BYTE 0x", "crc_init", "DATE_FULL 1, Q", "CRC_BYTE 256"].map (fun t => assemble t.toList) =
      List.replicate 6 none := by decide +kernel

/-! ### Decoding of words written field by field, the highest field first (30_encoding R102-R108) -/

theorem test_decode_nop : decode (0#24 ++ 0x00#8) = .ok .nop := by decide
theorem test_decode_crcInit : decode (0#24 ++ 0x01#8) = .ok .crcInit := by decide
theorem test_decode_crcByte : decode (0#16 ++ 0x31#8 ++ 0x02#8) = .ok (.crcByte 0x31) := by decide
theorem test_decode_crcBuf : decode (0#5 ++ 15#10 ++ 12#9 ++ 0x03#8) = .ok (.crcBuf 12 15) := by decide
theorem test_decode_mfrDecode : decode (0#8 ++ 0x2C2D#16 ++ 0x10#8) = .ok (.mfrDecode 0x2C2D) := by decide
theorem test_decode_dateFull : decode (0#7 ++ 0#1 ++ 0x279F#16 ++ 0x20#8) = .ok (.dateFull 0x279F false) := by decide
theorem test_decode_dateFull_R : decode (0#7 ++ 1#1 ++ 0x279F#16 ++ 0x20#8) = .ok (.dateFull 0x279F true) := by decide
theorem test_decode_dateRel : decode (0#8 ++ 0x06F0#16 ++ 0x21#8) = .ok (.dateRel 0x06F0) := by decide
theorem test_decode_hdrParse : decode (0#24 ++ 0x30#8) = .ok .hdrParse := by decide
theorem test_decode_segment : decode (0#24 ++ 0x31#8) = .ok .segment := by decide
theorem test_decode_appDecode : decode (0#24 ++ 0x32#8) = .ok .appDecode := by decide
theorem test_decode_frameDecode : decode (0#24 ++ 0x3F#8) = .ok .frameDecode := by decide

/-- Vectors E2-E8: unassigned OPs and reserved bits. -/
theorem test_decode_illegal :
    decode 0x00000004 = .error .unassignedOp ∧ decode 0x00000100 = .error .reservedBitSet ∧
    decode 0x01000002 = .error .reservedBitSet ∧ decode 0x02000020 = .error .reservedBitSet ∧
    decode 0x08000003 = .error .reservedBitSet ∧ decode 0x0000003E = .error .unassignedOp ∧
    decode 0x000000FF = .error .unassignedOp := by decide

/-- The host's questions, on the table's longest row and on an illegal word. -/
theorem test_decodeTableWord :
    decodeTableWord 32 0x001E0C03 = some (.crcBuf 12 15) ∧ decodeTableWord 32 0x00000004 = none := by decide

/-! ### One step per test, on the vectors of 95_test_vectors -/

/-- Vector E1. -/
theorem test_nop : ran 0x00000000 State.reset [.status, .cmd] = some [0x00000002, 0x00000000] := by decide +kernel

/-- Vector E2: an illegal word. -/
theorem test_illegal : ran 0x00000004 State.reset [.status, .cmd] = some [0x00000412, 0x00000004] := by decide +kernel

/-- 40_checksum R124: ACC takes INIT. -/
theorem test_crcInit : ran 0x00000001 { State.reset with crcInit := 0x1234, crcAcc := 0 } [.status, .crcAcc] =
    some [0x00000102, 0x00001234] := by decide +kernel

/-- Vector C7. -/
theorem test_crcByte : ran 0x00003102 State.reset [.status, .crcAcc, .crcOut] =
    some [0x00000202, 0x0000E149, 0x00001EB6] := by decide +kernel

/-- The step on 8000 and byte 00 (95_test_vectors 2.1). -/
theorem test_crcByte_reduces : ran 0x00000002 { State.reset with crcAcc := 0x8000 } [.crcAcc] = some [0x00007A6C] := by
  decide +kernel

/-- Vector C18. -/
theorem test_crcBuf : ran 0x00140003 (holding telegramT1) [.status, .crcAcc, .crcOut] =
    some [0x00000302, 0x000080F1, 0x00007F0E] := by decide +kernel

/-- Vector C21. -/
theorem test_crcBuf_range : ran 0x001BF403 { State.reset with crcAcc := 0x1234 } [.status, .crcAcc] =
    some [0x00000322, 0x00001234] := by decide +kernel

/-- Vector M5. -/
theorem test_mfrDecode : ran 0x002C2D10 State.reset [.status, .mfrOut] = some [0x00001002, 0x004D414B] := by decide +kernel

/-- Vector M3: bit 15 is ignored. -/
theorem test_mfrDecode_bit15 : ran 0x00800010 State.reset [.mfrOut] = some [0x00404040] := by decide +kernel

/-- Vectors D2 and E9. -/
theorem test_dateFull : ran 0x01279F20 State.reset [.status, .dateOut, .dateRef] =
    some [0x00002002, 0x9F0C07E3, 0x9F0C07E3] := by decide +kernel

/-- Vector D5: month 15 is no month; without R the reference stays. -/
theorem test_dateFull_invalid : ran 0x007FFF20 State.reset [.dateOut, .dateRef] = some [0x1F0F080F, 0x00000000] := by
  decide +kernel

/-- Vector D16: 29 February of the leap year after the reference. -/
theorem test_dateRel : ran 0x0005D021 (referring 0x8F0307E3 true) [.status, .dateOut, .dateRef] =
    some [0x00002102, 0x9D0207E4, 0x8F0307E3] := by decide +kernel

/-- Vector D20: the year wraps. -/
theorem test_dateRel_wraps : ran 0x0006F021 (referring 0x9F0CFFFF true) [.dateOut] = some [0x8F030000] := by decide +kernel

/-- Vectors F1 and F4: the header of T1, and its stored checksum low byte first. -/
theorem test_hdrParse : ran 0x00000030 (holding telegramT1) [.status, .hdrStat, .hdrLcvt, .hdrMfr, .hdrMfrc, .hdrAddr, .hdrCrc] =
    some [0x00003002, 0x00000003, 0x07014418, 0x00002C2D, 0x004D414B, 0x12345678, 0x7F0E7F0E] := by decide +kernel

theorem test_hdrParse_lowFirst :
    ran 0x00000030 { holding telegramT1 with ctrl := ⟨false, true, false⟩ } [.hdrStat, .hdrCrc] =
      some [0x00000001, 0x7F0E0E7F] := by decide +kernel

/-- P4: SEGMENT on T1'. -/
theorem test_segment : ran 0x00000031 (holding telegramT1') [.status, .segStat, .segN, .segCi, .segTail, .blkInfo 0, .blkCrc 0] =
    some [0x00003102, 0x00000001, 0x0000000F, 0x000E0178, 0x0000001D, 0x020F000C, 0x08EBFAD4] := by decide +kernel

/-- Vector F7: a truncated second block. -/
theorem test_segment_truncated :
    ran 0x00000031 (holding telegramT2cut) [.segStat, .segN, .segCi, .segTail, .blkInfo 0, .blkCrc 0, .blkInfo 1] =
      some [0x00010101, 0x00000014, 0x000F0178, 0x0003001E, 0x0310000C, 0xA1EEA1EE, 0x00000000] := by decide +kernel

/-- Vector F1: the reading of T1. -/
theorem test_appDecode :
    ran 0x00000032 (holdingPayload payloadT1) [.status, .rdStat, .rdLast, .rdCur, .rdTemp, .rdLdate, .rdCdate, .rdTail, .dateRef] =
      some [0x00003202, 0x00000001, 0x04D2279F, 0x051406F0, 0x07BC0866, 0x9F0C07E3, 0x8F0307E4, 0x00000001, 0x9F0C07E3] := by
  decide +kernel

/-- Vector F11. -/
theorem test_appDecode_short : ran 0x00000032 State.reset [.status, .rdStat, .rdLast] =
    some [0x00003242, 0x00000000, 0x00000000] := by decide +kernel

/-- Vector F1. -/
theorem test_frameDecode :
    ran 0x0000003F (holding telegramT1) [.status, .dateRef, .hdrStat, .segStat, .segCi, .rdStat, .rdCdate, .crcAcc] =
      some [0x00003F02, 0x9F0C07E3, 0x00000003, 0x00010401, 0x000E0178, 0x00000001, 0x8F0307E4, 0x0000FFFF] := by decide +kernel

/-- Vector F9. -/
theorem test_frameDecode_short :
    ran 0x0000003F (holding telegramN1) [.status, .hdrCrc, .segStat, .segN, .segCi, .segTail, .blkInfo 0, .blkCrc 0, .rdStat] =
      some [0x00003F42, 0xF6B7F6B7, 0x00010401, 0x00000001, 0x00000178, 0x0009000F, 0x0301000C, 0xC8A8C8A8, 0x00000000] := by
  decide +kernel

/-! ### The bus (95_test_vectors 2.5) -/

theorem test_bus_errors :
    [Input.access (.read 0x004 .byte), .access (.read 0x002 .word), rd32 0x030, rd32 0x09C, rd32 0x180, rd32 0x700, rd32 0xFFC,
      wr16 0x401 0].map answerTo = List.replicate 8 (some [.error]) := by decide +kernel

theorem test_bus_okay :
    [wr8 0x401 0, wr16 0x402 0, wr32 0x5FC 0, wr32 0x600 0].map answerTo = List.replicate 4 (some [.okay]) ∧
    [rd32 0x000, rd32 0x098, rd32 0x100, rd32 0x17C].map answerTo =
      [some [.data 6], some [.data 0], some [.data 0], some [.data 0]] := by decide +kernel

/-- FRAME_LEN clamps to 512. -/
theorem test_frameLen_clamps :
    afterStep (presented [wr32 0x00C 0x00001000]) (fun t => t.readReg .frameLen) = some 0x00000200 := by decide +kernel

/-- 10_state R24: each bit of CTRL alone is its own field. -/
theorem test_ctrl_fields :
    [1, 2, 4].map (fun w => afterStep (presented [wr32 0x000 w]) State.ctrl) =
      [some ⟨true, false, false⟩, some ⟨false, true, false⟩, some ⟨false, false, true⟩] := by decide +kernel

/-- 10_state R34, R35 on the record of vector D2: 2019-12-31, V = 1; bits 30:29 are ignored. -/
theorem test_dateRef_fields :
    afterStep (presented [wr32 0x028 0xFF0C07E3]) State.dateRef = some ⟨2019, 12, 31, true⟩ := by decide +kernel

/-- P5: a word written to FRAME_BUF lies with its least significant byte first. -/
theorem test_frameBuf_word :
    afterStep (presented [wr32 0x418 0xFAAA07BC]) (fun t => [t.fb 24, t.fb 25, t.fb 26, t.fb 27]) =
      some [0xBC, 0x07, 0xAA, 0xFA] := by decide +kernel

/-- 70 R249: a CMD write waits for the busy command, whose step comes first. -/
theorem test_stall : afterStep (busyWith 0x00003102 [wr32 0x008 0x00000001]) (fun t => (t.crcAcc, t.cmd, t.inputs.length)) =
    some (0xE149, 0x00003102, 1) := by decide +kernel

/-! ### Witnesses: a concrete case that meets the hypotheses of each obligation that has any, one per clause -/

theorem test_witness_EveryLegalWordIsItsCommandsEncoding : decode 0x07FFFF03 = .ok (.crcBuf 511 1023) := by decide

theorem test_witness_DecodingIsTheOneMatchingRow :
    (∃ r ∈ opcodeMap, 0x01FFFF20 &&& r.mask = r.pattern ∧ decode 0x01FFFF20 = .ok (r.command 0x01FFFF20)) ∧
    (∀ r ∈ opcodeMap, 0x02000020#32 &&& r.mask ≠ r.pattern) ∧ decode 0x02000020 = .error .reservedBitSet :=
  ⟨⟨opcodeMap[5], List.getElem_mem _, by decide, by decide⟩, by decide, by decide⟩

theorem test_witness_IllegalWordsAreRefusedExactly :
    (State.reset.issue 0x08000003).latch = 0x08000003 ∧ ¬ Claims.legalWord 0x08000003 ∧ Claims.legalWord 0x07FFFF03 := by
  unfold Claims.legalWord Claims.bitsOf
  decide

theorem test_witness_OperandsAreTheWordsFields :
    decode 0x01FFFF20 = .ok (.dateFull 0xFFFF true) ∧ decode 0x00FFFF20 = .ok (.dateFull 0xFFFF false) := by decide

theorem test_witness_AssemblerLinesEncode :
    (AsmLine.crcBuf 511 1023).instr? = some (.crcBuf 511 1023) ∧ (AsmLine.crcBuf 511 1024).instr? = none ∧
    ¬ Claims.operandTooLarge (.crcBuf 511 1023) ∧ Claims.operandTooLarge (.crcBuf 511 1024) := by
  unfold Claims.operandTooLarge
  decide

theorem test_witness_StepRunsTheDecodedCommand :
    (busyWith 0x3F []).busy = true ∧ decode (busyWith 0x3F []).latch = .ok .frameDecode ∧ (busyWith 0x3F []).inputs = [] ∧
    (busyWith 0x3F [wr32 0x008 0]).inputs = wr32 0x008 0 :: [] ∧ (wr32 0x008 0).passesBusy = false := by decide

theorem test_witness_BusyHoldsEveryOtherAccess :
    (busyWith 0 [rd32 0x020]).busy = true ∧ (busyWith 0 [rd32 0x020]).inputs = .access (.read 0x020 .word) :: [] ∧
    Access.read 0x020 .word ≠ .read 0x004 .word ∧ Access.read 0x004 .byte ≠ .read 0x004 .word := by decide

theorem test_witness_BusyCommandEndsWithinPendingInputs : (busyWith 0 (pollStatus 2)).busy = true := by decide

theorem test_witness_StatusPollsDoNotChangeTheResult :
    ∃ u, (busyWith 0 (pollStatus 2 ++ [rd32 0x020])).busy = true ∧ (rd32 0x020).passesBusy = false ∧
      engineStep (busyWith 0 (pollStatus 2 ++ [rd32 0x020])) = .next u :=
  ⟨_, by decide, by decide, rfl⟩

theorem test_witness_CmdWriteIssuesTheCommand :
    (presented [wr32 0x008 0xFF]).busy = false ∧
    (presented [wr32 0x008 0xFF]).inputs = .access (.write 0x008 .word 0xFF) :: [] := by decide

theorem test_witness_StatusReadWhileBusy :
    let s := busyWith 0x3102 [rd32 0x004]
    s.busy = true ∧ s.status.done = false ∧ s.status.lastop = s.cmd.setWidth 8 ∧ s.latch = s.cmd ∧
      s.inputs = .access (.read 0x004 .word) :: [] := by decide

theorem test_witness_CrcBufChecksumsTheRange :
    (500 : BitVec 9).toNat + (12 : BitVec 10).toNat ≤ 512 ∧ (0 : BitVec 9).toNat + (512 : BitVec 10).toNat ≤ 512 := by decide

theorem test_witness_RangeIsRaisedOnlyByCrcBuf :
    512 < (500 : BitVec 9).toNat + (13 : BitVec 10).toNat ∧
    ∃ t, exec (.crcBuf 500 13) State.reset = .next t ∧ t.status.err = .range :=
  ⟨by decide, _, exec_eq _ _, by decide⟩

theorem test_witness_StreamingAndBufferFormsAgree : (510 : BitVec 9).toNat + (2 : BitVec 10).toNat ≤ 512 := by decide

theorem test_witness_ChecksumRunsFromAFreshAccumulator :
    let s := State.reset
    let t := (holding telegramT1).setAcc 0
    t.crcPoly = s.crcPoly ∧ t.crcInit = s.crcInit ∧ t.crcXorout = s.crcXorout ∧ t ≠ s := by decide

/-- The clauses of a day before the reference's and of one that is not, each with ROLLFIX 1. -/
theorem test_witness_DateRelResolvesAgainstTheReference :
    Claims.before 12 30 12 31 ∧ ¬ Claims.before 12 31 12 31 ∧ (referring 0x9F0C07E3 true).ctrl.rollfix = true ∧
    (relDate 0x19E0 (DateRecord.ofWord 0x9F0C07E3) true).word = 0x9E0C07E4 ∧
    (relDate 0x19F0 (DateRecord.ofWord 0x9F0C07E3) true).word = 0x9F0C07E3 := by
  unfold Claims.before
  decide +kernel

/-- The last reference year whose rollover does not wrap, and a year the clause speaks of. -/
theorem test_witness_RollfixGivesTheNextOccurrence :
    let ref := DateRecord.ofWord 0x9F0CFFFE
    ref.year.toNat < 65535 ∧ (relDate 0x06F0 ref true).year.toNat = 65535 := by decide +kernel

/-- Vectors D14, D16, D20 and D19, one for each clause. -/
theorem test_witness_RelativeDateCorners :
    let equal := relDate 0x06F0 (DateRecord.ofWord 0x8F0307E3) true
    let leap := relDate 0x05D0 (DateRecord.ofWord 0x8F0307E3) true
    (equal.month = 3 ∧ equal.day = 15) ∧ (leap.month = 2 ∧ leap.day = 29 ∧ leap.v = true) ∧
    ((DateRecord.ofWord 0x9F0CFFFF).year = 65535 ∧ Claims.before 3 15 12 31) ∧
    (DateRecord.ofWord 0x0F0307E3).v = false := by
  unfold Claims.before
  decide +kernel

theorem test_witness_HdrParseFillsTheHeaderRegisters : 24 ≤ (holding telegramL5).frameLen.toNat := by decide +kernel

theorem test_witness_ShortFramesRaiseFrame :
    (holding (telegramT1.take 23)).frameLen.toNat < 24 ∧
    ∃ t, exec .segment (holding (telegramT1.take 23)) = .next t ∧ t.status.err = .frame :=
  ⟨by decide +kernel, _, exec_eq _ _, by decide +kernel⟩

theorem test_witness_SegmentWritesOnlyItsResults : 24 ≤ (holding telegramL5).frameLen.toNat := by decide +kernel

/-- A block found, an entry without one, and a segmentation that is not truncated. -/
theorem test_witness_SegmentFillsTheBlockTable :
    ∃ t, 24 ≤ (holding telegramT1).frameLen.toNat ∧ exec .segment (holding telegramT1) = .next t ∧
      (0 : Fin 16).val < t.seg.nblk.toNat ∧ t.seg.nblk.toNat ≤ (1 : Fin 16).val ∧ t.seg.allOk = true :=
  ⟨_, by decide +kernel, exec_eq _ _, by decide +kernel⟩

theorem test_witness_SegmentationProperties :
    ∃ t u, 24 ≤ (holding telegramT1).frameLen.toNat ∧ exec .segment (holding telegramT1) = .next t ∧ t.seg.trunc = false ∧
      (0 : Fin 16).val < t.seg.nblk.toNat ∧ exec .segment t = .next u :=
  ⟨_, _, by decide +kernel, exec_eq _ _, by decide +kernel, by decide +kernel, exec_eq _ _⟩

/-- A truncated segmentation, and one that is not, at the boundary of no block. -/
theorem test_witness_SegmentStopsAtTheFirstBlockThatDoesNotFit :
    (∃ t, 24 ≤ (holding telegramT2cut).frameLen.toNat ∧ exec .segment (holding telegramT2cut) = .next t ∧ t.seg.trunc = true) ∧
    (∃ t, 24 ≤ (holding telegramL5).frameLen.toNat ∧ exec .segment (holding telegramL5) = .next t ∧ t.seg.trunc = false) :=
  ⟨⟨_, by decide +kernel, exec_eq _ _, by decide +kernel⟩, ⟨_, by decide +kernel, exec_eq _ _, by decide +kernel⟩⟩

theorem test_witness_SegmentReassemblesThePayload :
    ∃ t, 24 ≤ (holding telegramT1).frameLen.toNat ∧ exec .segment (holding telegramT1) = .next t ∧
      t.seg.payLen.toNat = 14 ∧ t.seg.ciP = true :=
  ⟨_, by decide +kernel, exec_eq _ _, by decide +kernel⟩

theorem test_witness_AppDecodeExtractsTheReading : 13 ≤ (holdingPayload (payloadT1.take 13)).seg.payLen.toNat := by decide +kernel

theorem test_witness_ShortPayloadsRaisePayload :
    (holdingPayload (payloadT1.take 12)).seg.payLen.toNat < 13 ∧
    ∃ h g t, 24 ≤ (holding telegramN1).frameLen.toNat ∧ exec .hdrParse (holding telegramN1) = .next h ∧
      exec .segment (holding telegramN1) = .next g ∧ g.seg.payLen.toNat < 13 ∧
      exec .frameDecode (holding telegramN1) = .next t ∧ t.status.err = .payload :=
  ⟨by decide +kernel, _, _, _, by decide +kernel, exec_eq _ _, exec_eq _ _, by decide +kernel, exec_eq _ _, by decide +kernel⟩

/-- Two states that differ in the byte just above FRAME_LEN. -/
def beyond (b : Byte) : State := { holding telegramT1 with mem := Memory.storeBytes [] 0x400 (telegramT1 ++ [b]) }

theorem test_witness_FrameCommandsReadOnlyBelowFrameLen :
    let s := beyond 0x11
    let s' := beyond 0x22
    s' = { s with mem := s'.mem, drawEpoch := s'.drawEpoch } ∧ s'.fb 29 ≠ s.fb 29 ∧
    (∀ k, k < s.frameLen.toNat → k < 512 → s'.fb k = s.fb k) ∧ (∀ k, k < 256 → s'.pb k = s.pb k) ∧
    (∃ t, exec .frameDecode s = .next t) ∧ (∃ t, exec .frameDecode s' = .next t) := by
  refine ⟨rfl, by decide +kernel, fun k hk _ => ?_, by decide +kernel, ⟨_, exec_eq _ _⟩, ⟨_, exec_eq _ _⟩⟩
  have h : ∀ k, k < 29 → (beyond 0x22).fb k = (beyond 0x11).fb k := by decide +kernel
  exact h k hk

/-- The same telegram in two states that differ in DATE_REF and ACC. -/
theorem test_witness_NoStateCrossesTelegrams :
    let s := holding telegramT1
    let s' := { holding telegramT1 with dateRef := DateRecord.ofWord 0x8F0307E3, crcAcc := 0 }
    s'.ctrl = s.ctrl ∧ s'.crcPoly = s.crcPoly ∧ s'.crcInit = s.crcInit ∧ s'.crcXorout = s.crcXorout ∧
    s'.frameLen = s.frameLen ∧ (∀ k, k < s.frameLen.toNat → k < 512 → s'.fb k = s.fb k) ∧
    (∃ t, exec .frameDecode s = .next t ∧ t.status.err = .success) ∧ (∃ t, exec .frameDecode s' = .next t) :=
  ⟨rfl, rfl, rfl, rfl, rfl, fun _ _ _ => rfl, ⟨_, exec_eq _ _, by decide +kernel⟩, ⟨_, exec_eq _ _⟩⟩

/-- A block whose checksums differ (T1') and a header whose checksums differ (T1 with CRCORD 0). -/
theorem test_witness_ChecksumMismatchIsOnlyAFlag :
    (∃ t, 24 ≤ (holding telegramT1').frameLen.toNat ∧ exec .segment (holding telegramT1') = .next t ∧
      (0 : Fin 16).val < t.seg.nblk.toNat ∧
      (t.seg.blkCrc[(0 : Fin 16)]).calculated ≠ (t.seg.blkCrc[(0 : Fin 16)]).stored) ∧
    (∃ t, exec .hdrParse { holding telegramT1 with ctrl := ⟨false, true, false⟩ } = .next t ∧
      t.hdr.crc.calculated ≠ t.hdr.crc.stored) ∧
    ∃ t, exec .frameDecode (holding telegramT1') = .next t :=
  ⟨⟨_, by decide +kernel, exec_eq _ _, by decide +kernel⟩, ⟨_, exec_eq _ _, by decide +kernel⟩, ⟨_, exec_eq _ _⟩⟩

theorem test_witness_EngineNeverWritesWhatTheHostOwns : ∃ t, engineStep (busyWith 0x3F []) = .next t := ⟨_, rfl⟩

/-- Each clause by a command that does change the register. -/
theorem test_witness_ResultsAreWrittenOnlyByTheirCommands :
    (∃ t, exec (.crcByte 0x31) State.reset = .next t ∧ t.crcAcc ≠ State.reset.crcAcc) ∧
    (∃ t, exec (.mfrDecode 0) State.reset = .next t ∧ t.mfrOut ≠ State.reset.mfrOut) ∧
    (∃ t, exec (.dateFull 0 true) State.reset = .next t ∧ t.dateOut ≠ State.reset.dateOut ∧ t.dateRef ≠ State.reset.dateRef) ∧
    (∃ t, exec .frameDecode (holding telegramT1) = .next t ∧ t.hdr ≠ (holding telegramT1).hdr ∧
      t.seg ≠ (holding telegramT1).seg ∧ t.rd ≠ (holding telegramT1).rd ∧
      t.readByte 0x601 ≠ (holding telegramT1).readByte 0x601) :=
  ⟨⟨_, exec_eq _ _, by decide +kernel⟩, ⟨_, exec_eq _ _, by decide +kernel⟩, ⟨_, exec_eq _ _, by decide +kernel⟩,
    ⟨_, exec_eq _ _, by decide +kernel⟩⟩

theorem test_witness_RegistersAreReadAtTheirOffsets :
    (presented [rd32 0x17C]).busy = false ∧ Claims.regOffset (.blkCrc 15) = 0x17C ∧
    target 0x17C 4 = some (.reg (.blkCrc 15)) ∧ target 0x000 4 = some (.reg .ctrl) := by decide

theorem test_witness_MisalignedAccessesAnswerError :
    let a := Access.write 0x401 .half 0
    (presented [.access a]).busy = false ∧ (presented [.access a]).inputs = .access a :: [] ∧
    Claims.accessOffset a % Claims.accessBytes a ≠ 0 := by decide

theorem test_witness_NarrowRegisterAccessesAnswerError :
    let a := Access.read 0x3FF .byte
    (presented [.access a]).busy = false ∧ (presented [.access a]).inputs = .access a :: [] ∧
    Claims.accessOffset a < 0x400 ∧ Claims.accessBytes a < 4 := by decide

/-- The ends of the unmapped ranges, and a mapped word on each side of one. -/
theorem test_witness_UnmappedAccessesAnswerError :
    let a := Access.read 0xFFC .word
    ((presented [.access a]).busy = false ∧ (presented [.access a]).inputs = .access a :: [] ∧
      Claims.accessOffset a = 0xFFC ∧ Claims.unmapped 0xFFC) ∧
    Claims.unmapped 0x030 ∧ Claims.unmapped 0x03F ∧ Claims.unmapped 0x058 ∧ Claims.unmapped 0x07F ∧ Claims.unmapped 0x09C ∧
    Claims.unmapped 0x0FF ∧ Claims.unmapped 0x180 ∧ Claims.unmapped 0x3FF ∧ Claims.unmapped 0x700 ∧ Claims.unmapped 0xFFF ∧
    ((0x02C : BitVec 12).toNat % 4 = 0 ∧ ¬ Claims.unmapped 0x02C) ∧ ¬ Claims.unmapped 0x040 ∧ ¬ Claims.unmapped 0x6FC := by
  refine ⟨⟨by decide, by decide, by decide, ?_⟩, ?_⟩ <;> unfold Claims.unmapped <;> simp

theorem test_witness_FrameBufWriteStoresLittleEndian :
    (presented [wr32 0x5FC 1]).busy = false ∧ (508 : Nat) < 512 ∧ 508 % AccessSize.word.bytes = 0 ∧
    (presented [wr32 0x5FC 1]).inputs = .access (.write (BitVec.ofNat 12 (0x400 + 508)) .word 1) :: [] := by decide

theorem test_witness_BufferReadAssemblesLittleEndian :
    ((presented [rd32 0x6FC]).busy = false ∧ inPayloadBuf 0x6FC ∧ 0x6FC % AccessSize.word.bytes = 0 ∧
      (presented [rd32 0x6FC]).inputs = .access (.read (BitVec.ofNat 12 0x6FC) .word) :: []) ∧
    (inFrameBuf 0x5FF ∧ 0x5FF % AccessSize.byte.bytes = 0 ∧
      (presented [.access (.read 0x5FF .byte)]).inputs = .access (.read (BitVec.ofNat 12 0x5FF) .byte) :: []) := by decide

theorem test_witness_ReadOnlyStateIgnoresWrites :
    ((presented [wr32 0x17C 1]).busy = false ∧ Reg.blkCrc 15 ∉ Claims.hostWritable ∧ 0x17C = Claims.regOffset (.blkCrc 15) ∧
      (presented [wr32 0x17C 1]).inputs = .access (.write (BitVec.ofNat 12 0x17C) .word 1) :: []) ∧
    (inPayloadBuf 0x6FF ∧ 0x6FF % AccessSize.byte.bytes = 0 ∧
      (presented [wr8 0x6FF 1]).inputs = .access (.write (BitVec.ofNat 12 0x6FF) .byte 1) :: []) := by decide

theorem test_witness_ConfigurationWritesStoreTheirFields :
    (presented [wr32 0x028 0xFFFFFFFF]).busy = false ∧
    Reg.dateRef ∈ Claims.hostWritable ∧ Reg.dateRef ≠ .status ∧ Reg.dateRef ≠ .cmd ∧
    (presented [wr32 0x028 0xFFFFFFFF]).inputs =
      .access (.write (BitVec.ofNat 12 (Claims.regOffset .dateRef)) .word 0xFFFFFFFF) :: [] ∧
    (presented [wr32 0x000 2]).inputs = .access (.write (BitVec.ofNat 12 (Claims.regOffset .ctrl)) .word 2) :: [] := by decide

theorem test_witness_StatusWriteAcknowledgesTheInterrupt :
    let s := { presented [wr32 0x004 2] with status := ⟨true, .frame, 0x3F⟩, ctrl := ⟨true, true, true⟩ }
    s.busy = false ∧ s.inputs = .access (.write 0x004 .word 2) :: [] ∧ s.irq = true ∧
    afterStep s (fun t => (t.readReg .status, t.irq)) = some (0x00003F30, false) := by decide +kernel

theorem test_witness_WindowAddressesReachTheirOffsets : portOffset Config.smcoreBase = some 0x000 := by
  have h : Config.smcoreBase % 4096 = 0 := by unfold Config.smcoreBase; omega
  unfold portOffset
  rw [if_pos (by omega)]
  congr 1
  apply BitVec.eq_of_toNat_eq
  simpa using h

theorem test_witness_PlatformResetAbandonsTheCommand :
    (presented [.reset]).inputs = .reset :: [] ∧ (presented [.reset]).busy = false := by decide

/-- A busy state that meets the invariant and its step. -/
theorem test_witness_StepKeepsTheInvariant : (busyWith 0x3F []).Inv ∧ ∃ t, step (busyWith 0x3F []) = .next t := by
  refine ⟨?_, _, rfl⟩
  refine ⟨by decide, by decide, rfl, rfl, fun _ => rfl, fun _ => rfl, by decide, by decide, ?_, fun i _ hi => ?_, fun _ => rfl⟩
  · constructor <;> decide
  · have h : inPayloadBuf (0x600 + i) := ⟨by omega, by omega⟩
    show unlistedByte 0 (0x600 + i) = 0
    rw [unlistedByte, Memory.unlisted, if_pos h]

end Sys2Proof.Tests
end

namespace Sys2Proof.Machine

open Sys2Proof

/-! ### The telegram's segmentation in numbers -/

/-- N is at most 246 (10_state R44). -/
theorem declaredSize_le (b : Byte) : declaredSize b.toNat ≤ 246 := by
  have := b.isLt
  unfold declaredSize
  split <;> omega

theorem segmentation_blocks_length_le (s : State) : s.segmentation.blocks.length ≤ 16 :=
  (segLoop_spec s 16 12 (declaredSize (s.fb 0).toNat)).1

/-- A block found is the one of its place, it has a declared byte, and it fits below LEN. -/
theorem segmentation_block {s : State} {i : Nat} {b : Block} (h : s.segmentation.blocks[i]? = some b) :
    b = s.blockAt (12 + 18 * i) (min 16 (declaredSize (s.fb 0).toNat - 16 * i)) ∧ 16 * i < declaredSize (s.fb 0).toNat ∧
      12 + 18 * i + min 16 (declaredSize (s.fb 0).toNat - 16 * i) + 2 ≤ s.len :=
  (segLoop_spec s 16 12 _).2.1 i b h

theorem blockAt_bytes_length (s : State) (pos bs : Nat) : (s.blockAt pos bs).bytes.length = bs := readBytes_length _ _ _

/-- A block found has 1 to 16 data bytes (10_state R47). -/
theorem segmentation_block_size {s : State} {b : Block} (h : b ∈ s.segmentation.blocks) :
    1 ≤ b.bytes.length ∧ b.bytes.length ≤ 16 := by
  obtain ⟨i, hi⟩ := List.mem_iff_getElem?.1 h
  obtain ⟨rfl, hlt, -⟩ := segmentation_block hi
  rw [blockAt_bytes_length]
  omega

theorem segmentation_dataBytes_length (s : State) :
    s.segmentation.dataBytes.length = min (declaredSize (s.fb 0).toNat) (16 * s.segmentation.blocks.length) :=
  segLoop_dataBytes_length s 16 12 _

/-- The payload has at most 245 bytes (10_state R45). -/
theorem segmentation_payload_length_le (s : State) : s.segmentation.payload.length ≤ 245 := by
  have := declaredSize_le (s.fb 0)
  rw [Segmentation.payload, List.length_drop, segmentation_dataBytes_length]
  omega

/-- Without a block there is no data byte. -/
theorem dataBytes_of_no_blocks {g : Segmentation} (h : g.blocks = []) : g.dataBytes = [] := by
  rw [Segmentation.dataBytes, h, List.flatMap_nil]

/-- The blocks of a telegram that has its first block's room end inside it (10_state R46). -/
theorem segmentation_endOff_le {s : State} (h : 24 ≤ s.len) : s.segmentation.endOff ≤ s.len := by
  obtain ⟨-, hblock, hend, -⟩ := segLoop_spec s 16 12 (declaredSize (s.fb 0).toNat)
  change s.segmentation.endOff = 12 + min _ (16 * s.segmentation.blocks.length) + 2 * s.segmentation.blocks.length at hend
  cases hn : s.segmentation.blocks.length with
  | zero => rw [hn] at hend; omega
  | succ n =>
    have hlast : s.segmentation.blocks[n]? = some s.segmentation.blocks[n] := List.getElem?_eq_getElem (by omega)
    have := hblock n _ hlast
    rw [hn] at hend
    omega

/-! ### The registers of a segmentation -/

section
variable (s : State) (g : Segmentation)

theorem segRegs_nblk (h : g.blocks.length ≤ 16) : (s.segRegs g).nblk.toNat = g.blocks.length := by
  simp only [State.segRegs, BitVec.toNat_ofNat]
  omega

theorem segRegs_payLen (h : g.payload.length ≤ 245) : (s.segRegs g).payLen.toNat = g.payload.length := by
  simp only [State.segRegs, BitVec.toNat_ofNat]
  omega

theorem segRegs_n : (s.segRegs g).n.toNat = declaredSize (s.fb 0).toNat := by
  have := declaredSize_le (s.fb 0)
  simp only [State.segRegs, BitVec.toNat_ofNat]
  omega

/-- The entry of a block found (10_state R47, R48). -/
theorem segRegs_entry_found {i : Fin 16} (h : i.val < g.blocks.length) :
    (s.segRegs g).blkInfo[i] = (g.blocks[i.val]).info ∧ (s.segRegs g).blkCrc[i] = (g.blocks[i.val]).crc := by
  simp only [State.segRegs, blockTable_get, List.getElem?_eq_getElem h, Option.map_some, Option.getD_some, and_self]

/-- An entry with no block is 0 (10_state R47, R48). -/
theorem segRegs_entry_absent {i : Fin 16} (h : g.blocks.length ≤ i.val) :
    (s.segRegs g).blkInfo[i] = .zero ∧ (s.segRegs g).blkCrc[i] = .zero := by
  simp only [State.segRegs, blockTable_get, List.getElem?_eq_none h, Option.map_none, Option.getD_none, and_self]

/-- Bit i of BLK_OK is the flag of block i, 0 where there is none (10_state R43). -/
theorem segRegs_blkOk_bit (i : Fin 16) :
    (s.segRegs g).blkOk.getLsbD i.val = ((g.blocks[i.val]?).map fun b => b.crc.ok).getD false := by
  simp only [State.segRegs, BitVec.getLsbD_ofNat, flagBits_testBit, List.getElem?_map, i.isLt, decide_true, Bool.true_and]

/-- ALL_OK is 1 exactly where nothing was truncated and every block found matched (10_state R43). -/
theorem segRegs_allOk_iff :
    (s.segRegs g).allOk = true ↔ g.trunc = false ∧ ∀ b ∈ g.blocks, b.crc.ok = true := by
  simp [State.segRegs, allBlocksOk]

end

/-- The two checksums of a pair are equal exactly where it is valid (40_checksum R122). -/
theorem CrcPair.ok_iff (c : CrcPair) : c.ok = true ↔ c.calculated = c.stored := by simp [CrcPair.ok]

theorem SegRegs.zero_consistent : SegRegs.zero.Consistent := by constructor <;> decide

/-- What the segmentation stage fills the registers with agrees among itself (10_state R43-R48). -/
theorem segRegs_consistent {s : State} (h24 : 24 ≤ s.len) (h512 : s.len ≤ 512) :
    (s.segRegs s.segmentation).Consistent := by
  have hlen := segmentation_blocks_length_le s
  have hnblk := segRegs_nblk s _ hlen
  have found := fun {i : Fin 16} (h : i.val < s.segmentation.blocks.length) => segRegs_entry_found s s.segmentation h
  have absent := fun {i : Fin 16} (h : s.segmentation.blocks.length ≤ i.val) => segRegs_entry_absent s s.segmentation h
  refine
    { nblk_le := by omega
      n_le := by rw [segRegs_n]; exact declaredSize_le _
      payLen_le := by
        rw [segRegs_payLen _ _ (segmentation_payload_length_le s)]; exact segmentation_payload_length_le s
      ci_zero := fun h => ?ci_zero
      ciP_iff := ?ciP_iff
      tail_le := ?tail_le
      present_iff := fun i => ?present_iff
      size_range := fun i hi => ?size_range
      absent_zero := fun i hi => absent (hnblk ▸ hi)
      ok_iff := fun i hi => ?ok_iff
      blkOk_bit := fun i => ?blkOk_bit
      allOk_says := fun h => ?allOk_says }
  case ci_zero =>
    have hnone : s.segmentation.blocks = [] := by simpa [State.segRegs] using h
    simp [State.segRegs, dataBytes_of_no_blocks hnone]
  case ciP_iff =>
    rw [hnblk, List.length_pos_iff]
    simp [State.segRegs]
  case tail_le =>
    have hend := segmentation_endOff_le h24
    simp only [State.segRegs, BitVec.toNat_ofNat]
    omega
  case present_iff =>
    rw [hnblk]
    by_cases hi : i.val < s.segmentation.blocks.length
    · simp [(found hi).1, Block.info, hi]
    · simp [(absent (Nat.le_of_not_lt hi)).1, BlkInfo.zero, hi]
  case size_range =>
    rw [hnblk] at hi
    have hsize := segmentation_block_size (List.getElem_mem hi)
    rw [(found hi).1]
    simp only [Block.info, BitVec.toNat_ofNat]
    omega
  case ok_iff =>
    rw [hnblk] at hi
    rw [(found hi).1, (found hi).2]
    exact CrcPair.ok_iff _
  case blkOk_bit =>
    rw [segRegs_blkOk_bit]
    by_cases hi : i.val < s.segmentation.blocks.length
    · simp [(found hi).1, Block.info, hi]
    · simp [(absent (Nat.le_of_not_lt hi)).1, BlkInfo.zero, hi]
  case allOk_says =>
    obtain ⟨htrunc, hall⟩ := (segRegs_allOk_iff _ _).1 h
    refine ⟨htrunc, fun i hi => ?_⟩
    rw [hnblk] at hi
    rw [(found hi).1]
    exact hall _ (List.getElem_mem hi)

end Sys2Proof.Machine

namespace Sys2Proof.Machine

open Sys2Proof

/-! ### What a command writes -/

/-- `Writes s i u`: the state `u` that the effects of command `i` may leave from `s`, before its completion. A constructor per
command names the registers its rule lets it write; FRAME_DECODE writes what its three stages write. -/
inductive Writes (s : State) : Instr → State → Prop where
  | nop : Writes s .nop s
  | crcInit (acc : Half) : Writes s .crcInit (s.setAcc acc)
  | crcByte (imm8 : Byte) (acc : Half) : Writes s (.crcByte imm8) (s.setAcc acc)
  | crcBuf (start : BitVec 9) (len : BitVec 10) (acc : Half) : Writes s (.crcBuf start len) (s.setAcc acc)
  | mfrDecode (imm16 : Half) (m : MfrChars) : Writes s (.mfrDecode imm16) (s.setMfrOut m)
  | dateFull (imm16 : Half) (d : DateRecord) : Writes s (.dateFull imm16 false) (s.setDateOut d)
  | dateFullRef (imm16 : Half) (d : DateRecord) :
      Writes s (.dateFull imm16 true) ((s.setDateOut d).setDateRef d)
  | dateRel (imm16 : Half) (d : DateRecord) : Writes s (.dateRel imm16) (s.setDateOut d)
  | hdrParse (h : HdrRegs) : Writes s .hdrParse (s.setHdr h)
  | segment (g : SegRegs) (m : Memory) : Writes s .segment ((s.setSeg g).setMem m)
  | appDecode (r : RdRegs) (d : DateRecord) : Writes s .appDecode ((s.setRd r).setDateRef d)
  | frameDecode (h : HdrRegs) (g : SegRegs) (m : Memory) (r : RdRegs) (d : DateRecord) :
      Writes s .frameDecode (((((s.setHdr h).setSeg g).setMem m).setRd r).setDateRef d)

/-- The effects of a command write only what its rule names. -/
theorem effect_writes (i : Instr) (s : State) : Writes s i (effect i s).2 := by
  cases i with
  | nop => exact .nop
  | crcInit => exact .crcInit _
  | crcByte imm8 => exact .crcByte _ _
  | crcBuf start len =>
    simp only [effect]
    split
    · exact .crcBuf _ _ _
    · exact .crcBuf _ _ s.crcAcc
  | mfrDecode imm16 => exact .mfrDecode _ _
  | dateFull imm16 r =>
    cases r
    · exact .dateFull _ _
    · exact .dateFullRef _ _
  | dateRel imm16 => exact .dateRel _ _
  | hdrParse =>
    change Writes s _ (hdrStage s).2
    rw [hdrStage_writes]
    exact .hdrParse _
  | segment =>
    change Writes s _ (segStage s).2
    rw [segStage_writes]
    exact .segment _ _
  | appDecode =>
    change Writes s _ (appStage s).2
    rw [appStage_writes]
    exact .appDecode _ _
  | frameDecode =>
    change Writes s _ (appStage (segStage (hdrStage s).2).2).2
    rw [appStage_writes, segStage_writes, hdrStage_writes]
    exact .frameDecode _ _ _ _ _

/-! ### The bytes the stages leave -/

/-- The payload the segmentation stage leaves in PAYLOAD_BUF: none for a telegram below 24 bytes (43_frame R175). -/
def State.stagedPayload (s : State) : List Byte := if s.len < 24 then [] else s.segmentation.payload

theorem stagedPayload_length_le (s : State) : s.stagedPayload.length ≤ 245 := by
  unfold State.stagedPayload
  split
  · simp
  · exact segmentation_payload_length_le s

theorem hdrStage_readByte (s : State) (a : Nat) : (hdrStage s).2.readByte a = s.readByte a := by
  rw [hdrStage_writes]; rfl

theorem appStage_readByte (s : State) (a : Nat) : (appStage s).2.readByte a = s.readByte a := by
  rw [appStage_writes]; rfl

/-- After the segmentation stage PAYLOAD_BUF holds the payload with 0x00 behind it, and every other byte is as before. -/
theorem segStage_readByte (s : State) (a : Nat) :
    (segStage s).2.readByte a =
      if inPayloadBuf a then (s.stagedPayload[a - 0x600]?).getD 0 else s.readByte a := by
  by_cases h : s.len < 24
  · rw [segStage_short h, State.stagedPayload, if_pos h]
    exact readByte_clearPayload (s.setSeg .zero) a
  · rw [segStage_full (Nat.le_of_not_lt h), State.stagedPayload, if_neg h]
    have := segmentation_payload_length_le s
    exact readByte_withPayload (s.setSeg _) _ (by omega) a

/-- PAY_LEN counts the payload the segmentation stage leaves (10_state R45). -/
theorem segStage_payLen (s : State) : (segStage s).2.seg.payLen.toNat = s.stagedPayload.length := by
  by_cases h : s.len < 24
  · rw [segStage_short h, State.stagedPayload, if_pos h]
    rfl
  · rw [segStage_full (Nat.le_of_not_lt h), State.stagedPayload, if_neg h]
    exact segRegs_payLen _ _ (segmentation_payload_length_le s)

/-- No command writes a byte outside PAYLOAD_BUF (10_state R56). -/
theorem effect_readByte_outside (i : Instr) (s : State) {a : Nat} (ha : ¬ inPayloadBuf a) :
    (effect i s).2.readByte a = s.readByte a := by
  cases i with
  | crcBuf start len => simp only [effect]; split <;> rfl
  | dateFull imm16 r => cases r <;> rfl
  | hdrParse => exact hdrStage_readByte s a
  | segment => exact (segStage_readByte s a).trans (if_neg ha)
  | appDecode => exact appStage_readByte s a
  | frameDecode =>
    calc (appStage (segStage (hdrStage s).2).2).2.readByte a
        = (segStage (hdrStage s).2).2.readByte a := appStage_readByte _ a
      _ = (hdrStage s).2.readByte a := (segStage_readByte _ a).trans (if_neg ha)
      _ = s.readByte a := hdrStage_readByte s a
  | _ => rfl

/-! ### The invariant under the Engine's step -/

section
variable {s : State} (h : s.Inv)
include h

theorem complete_inv (e : ErrCode) : (s.complete e).Inv := { h with busy_not_done := fun hb => nomatch hb }

theorem setAcc_inv (a : Half) : (s.setAcc a).Inv := { h with }

theorem setMfrOut_inv (m : MfrChars) : (s.setMfrOut m).Inv := { h with }

theorem setDateOut_inv (d : DateRecord) : (s.setDateOut d).Inv := { h with }

theorem setDateRef_inv (d : DateRecord) : (s.setDateRef d).Inv := { h with }

theorem setRd_inv {r : RdRegs} (hr : r.valid = false → r = .zero) : (s.setRd r).Inv := { h with rd_zero := hr }

/-- The header stage fills all header registers or clears them all (43_frame R171). -/
theorem hdrStage_inv : (hdrStage s).2.Inv := by
  by_cases hlen : s.len < 24
  · rw [hdrStage_short hlen]
    exact { h with hdr_zero := fun _ => rfl, hdr_crcOk := nofun, hdr_mfrc := nofun }
  · rw [hdrStage_full (Nat.le_of_not_lt hlen)]
    exact { h with hdr_zero := nofun, hdr_crcOk := fun _ => CrcPair.ok_iff _, hdr_mfrc := fun _ => rfl }

/-- The segmentation stage keeps the memory's form, its registers' relations, and 0x00 behind the payload. -/
theorem segStage_inv : (segStage s).2.Inv := by
  have hmem : Memory.wf (segStage s).2.mem = true := by
    unfold segStage
    split
    · exact Memory.wf_clearPayload h.mem_wf
    · exact Memory.wf_withPayload h.mem_wf _
  have hseg : (segStage s).2.seg.Consistent := by
    unfold segStage
    split
    · exact SegRegs.zero_consistent
    · next hlen => exact segRegs_consistent (Nat.le_of_not_lt hlen) h.frameLen_le
  have htail : ∀ i, (segStage s).2.seg.payLen.toNat ≤ i → i < 256 → (segStage s).2.pb i = 0 := by
    intro i hi hlt
    have hin : inPayloadBuf (0x600 + i) := ⟨by omega, by omega⟩
    rw [segStage_payLen] at hi
    rw [State.pb, segStage_readByte, if_pos hin, Nat.add_sub_cancel_left, List.getElem?_eq_none hi, Option.getD_none]
  rw [segStage_writes] at hmem hseg htail ⊢
  exact { h with mem_wf := hmem, seg_consistent := hseg, payload_tail := htail }

/-- The payload stage fills all reading registers or clears them all (43_frame R178). -/
theorem appStage_inv : (appStage s).2.Inv := by
  by_cases hlen : s.payLen < 13
  · rw [appStage_short hlen]
    exact setRd_inv h fun _ => rfl
  · rw [appStage_full (Nat.le_of_not_lt hlen)]
    exact setDateRef_inv (setRd_inv (r := s.parsedRd) h nofun) _

theorem effect_inv (i : Instr) : (effect i s).2.Inv := by
  cases i with
  | nop => exact h
  | crcInit => exact setAcc_inv h _
  | crcByte imm8 => exact setAcc_inv h _
  | crcBuf start len =>
    simp only [effect]
    split
    · exact setAcc_inv h _
    · exact h
  | mfrDecode imm16 => exact setMfrOut_inv h _
  | dateFull imm16 r =>
    cases r
    · exact setDateOut_inv h _
    · exact setDateRef_inv (setDateOut_inv h _) _
  | dateRel imm16 => exact setDateOut_inv h _
  | hdrParse => exact hdrStage_inv h
  | segment => exact segStage_inv h
  | appDecode => exact appStage_inv h
  | frameDecode => exact appStage_inv (segStage_inv (hdrStage_inv h))

theorem engineStep_inv {t : State} (ht : engineStep s = .next t) : t.Inv := by
  rcases engineStep_cases s with ⟨i, -, he⟩ | ⟨e, -, he⟩
  · rw [exec_next (he.symm.trans ht)]
    exact complete_inv (effect_inv h i) _
  · cases he.symm.trans ht
    exact complete_inv h _

end

end Sys2Proof.Machine

namespace Sys2Proof.Machine

open Sys2Proof

/-! ### The register map and what accesses reach -/

theorem regOffset_lt (r : Reg) : Claims.regOffset r < 0x400 := by
  cases r with
  | blkInfo i | blkCrc i => simp only [Claims.regOffset]; omega
  | _ => decide

theorem regOffset_mod_four (r : Reg) : Claims.regOffset r % 4 = 0 := by
  cases r with
  | blkInfo i | blkCrc i => simp only [Claims.regOffset]; omega
  | _ => rfl

/-- The register at an offset is the one the map places there (10_state R22). -/
theorem regAt_eq_some_iff (off : Nat) (r : Reg) : regAt off = some r ↔ off = Claims.regOffset r := by
  constructor
  · intro h
    unfold regAt at h
    split at h
    case h_30 =>
      split at h
      · next hin =>
        simp only [Option.some.injEq] at h
        split at h <;> subst h <;> simp only [Claims.regOffset, Fin.val_ofNat] <;> omega
      · cases h
    all_goals cases h; rfl
  · rintro rfl
    cases r with
    | blkInfo i | blkCrc i => revert i; decide
    | _ => rfl

/-- A 4-byte access at a register's offset reaches it (20_memory R77). -/
theorem target_regOffset (r : Reg) : target (Claims.regOffset r) 4 = some (.reg r) := by
  unfold target
  rw [if_neg (by simp [regOffset_mod_four]), if_pos (regOffset_lt r), if_pos rfl, (regAt_eq_some_iff _ r).2 rfl,
    Option.map_some]

theorem target_eq_reg {off n : Nat} {r : Reg} (h : target off n = some (.reg r)) : off = Claims.regOffset r := by
  rw [← regAt_eq_some_iff]
  unfold target at h
  split_ifs at h
  · simpa using h
  · simp at h
  · simp at h

/-- A legal access to FRAME_BUF lies in it with all its bytes: both ends of the buffer are aligned (20_memory R74, R78). -/
theorem target_eq_frameBuf {off a : Nat} {size : AccessSize} (h : target off size.bytes = some (.frameBuf a)) :
    0x400 ≤ a ∧ a + size.bytes ≤ 0x600 := by
  unfold target at h
  split_ifs at h with halign hreg hword hframe hpay
  · simp at h
  · obtain rfl : off = a := by simpa using h
    cases size <;> simp only [AccessSize.bytes] at halign ⊢ <;> omega
  · simp at h

theorem target_payloadBuf {off : Nat} {size : AccessSize} (h : inPayloadBuf off) (ha : off % size.bytes = 0) :
    target off size.bytes = some (.payloadBuf off) := by
  unfold target
  rw [if_neg (by omega), if_neg (by omega), if_neg (by omega), if_pos h.2]

/-! ### Performed accesses -/

/-- What is read at a register does not depend on what is pending or has been answered. -/
theorem readReg_inputs (s : State) (inputs : List Input) (r : Reg) :
    State.readReg { s with inputs := inputs } r = s.readReg r := by cases r <;> rfl

theorem readReg_answer (s : State) (a : Answer) (r : Reg) : (s.answer a).readReg r = s.readReg r := by cases r <;> rfl

theorem readBytes_inputs (s : State) (inputs : List Input) (a n : Nat) :
    State.readBytes { s with inputs := inputs } a n = s.readBytes a n := readBytes_congr fun _ _ => rfl

theorem readAnswer_inputs (s : State) (inputs : List Input) (off : BitVec 12) (size : AccessSize) :
    State.readAnswer { s with inputs := inputs } off size = s.readAnswer off size := by
  simp only [State.readAnswer, readReg_inputs, readBytes_inputs]

/-- The step of an idle SMCORE with a read pending answers it and changes nothing else (20_memory R83). -/
theorem step_idle_read {s : State} {off : BitVec 12} {size : AccessSize} {rest : List Input} (hb : s.busy = false)
    (hi : s.inputs = .access (.read off size) :: rest) :
    step s = .next { s with inputs := rest, answers := s.answers ++ [s.readAnswer off size] } := by
  rw [step_idle_input hb hi, State.takeInput, hi, ← readAnswer_inputs s rest]
  rfl

/-- The step of an idle SMCORE with a write pending performs and answers it. -/
theorem step_idle_write {s : State} {off : BitVec 12} {size : AccessSize} {data : Word} {rest : List Input}
    (hb : s.busy = false) (hi : s.inputs = .access (.write off size data) :: rest) :
    step s = .next ((State.written { s with inputs := rest } off size data).answer (writeAnswer off size)) := by
  rw [step_idle_input hb hi, State.takeInput, hi]
  rfl

theorem regOffset_ofNat (r : Reg) : (BitVec.ofNat 12 (Claims.regOffset r)).toNat = Claims.regOffset r := by
  rw [BitVec.toNat_ofNat, Nat.mod_eq_of_lt (lt_trans (regOffset_lt r) (by decide))]

theorem readAnswer_reg (s : State) (r : Reg) :
    s.readAnswer (BitVec.ofNat 12 (Claims.regOffset r)) .word = .data (s.readReg r) := by
  simp only [State.readAnswer, regOffset_ofNat, AccessSize.bytes, target_regOffset]

/-- A performed write at a register's offset is the register's write, answered OKAY (20_memory R77). -/
theorem step_idle_writeReg {s : State} {r : Reg} {w : Word} {rest : List Input} (hb : s.busy = false)
    (hi : s.inputs = .access (.write (BitVec.ofNat 12 (Claims.regOffset r)) .word w) :: rest) :
    step s = .next ((State.writeReg { s with inputs := rest } r w).answer .okay) := by
  rw [step_idle_write hb hi]
  simp only [State.written, writeAnswer, regOffset_ofNat, AccessSize.bytes, target_regOffset]

/-- A register that is not in the list of the writable ones ignores a write (10_state R23). -/
theorem writeReg_readOnly {r : Reg} (hr : r ∉ Claims.hostWritable) (s : State) (w : Word) : s.writeReg r w = s := by
  cases r with
  | ctrl | status | cmd | frameLen | crcPoly | crcInit | crcXorout | dateRef => exact absurd (by decide) hr
  | _ => rfl

end Sys2Proof.Machine

namespace Sys2Proof.Machine

open Sys2Proof

/-! ### The invariant under the Host's and the platform's moves -/

/-- PAYLOAD_BUF is 0x00 where nothing has been written since reset (10_state R57). -/
theorem pb_of_no_cells {s : State} (hm : s.mem = []) {i : Nat} (hi : i < 256) : s.pb i = 0 := by
  have hin : inPayloadBuf (0x600 + i) := ⟨by omega, by omega⟩
  rw [State.pb, readByte_eq, hm, Memory.unlisted, if_pos hin]
  rfl

/-- A performed reset establishes the invariant from any state (70 R241). -/
theorem platformReset_inv (s : State) : s.platformReset.Inv :=
  { mem_wf := reset_mem_wf
    frameLen_le := Nat.zero_le _
    latch_cmd := rfl
    lastop_cmd := rfl
    busy_not_done := fun _ => rfl
    hdr_zero := fun _ => rfl
    hdr_crcOk := nofun
    hdr_mfrc := nofun
    seg_consistent := SegRegs.zero_consistent
    payload_tail := fun _ _ hi => pb_of_no_cells rfl hi
    rd_zero := fun _ => rfl }

section
variable {s : State} (h : s.Inv)
include h

theorem answer_inv (a : Answer) : (s.answer a).Inv := { h with }

/-- A CMD write records its word in LATCH, CMD and LASTOP together and clears DONE (10_state R25, R26, R58). -/
theorem issue_inv (w : Word) : (s.issue w).Inv :=
  { h with latch_cmd := rfl, lastop_cmd := rfl, busy_not_done := fun _ => rfl }

theorem writeReg_inv (r : Reg) (w : Word) : (s.writeReg r w).Inv := by
  cases r with
  | cmd => exact issue_inv h w
  | status =>
    simp only [State.writeReg]
    split
    · exact { h with busy_not_done := fun _ => rfl }
    · exact h
  | frameLen =>
    have hle : (BitVec.ofNat 10 (min w.toNat 512)).toNat ≤ 512 := by rw [BitVec.toNat_ofNat]; omega
    exact { h with frameLen_le := hle }
  | ctrl | crcPoly | crcInit | crcXorout | dateRef => exact { h with }
  | _ => exact h

/-- A write to FRAME_BUF keeps PAYLOAD_BUF (20_memory R78). -/
theorem frameBufWrite_inv {a : Nat} {bs : List Byte} (ha : 0x400 ≤ a) (hfit : a + bs.length ≤ 0x600) :
    (s.setMem (s.mem.storeBytes a bs)).Inv := by
  have hpb : ∀ i, (s.setMem (s.mem.storeBytes a bs)).pb i = s.pb i := by
    intro i
    rw [State.pb, readByte_storeBytes s a bs fun k hk => .inl ⟨by omega, by omega⟩, if_pos (by omega),
      List.getElem?_eq_none (by omega), Option.getD_none]
    rfl
  exact
    { h with
      mem_wf := Memory.wf_storeBytes h.mem_wf a bs
      payload_tail := fun i hi hlt => (hpb i).trans (h.payload_tail i hi hlt) }

theorem written_inv (off : BitVec 12) (size : AccessSize) (data : Word) : (s.written off size data).Inv := by
  unfold State.written
  split
  · exact writeReg_inv h _ _
  · next htarget =>
    obtain ⟨hlow, hhigh⟩ := target_eq_frameBuf htarget
    exact frameBufWrite_inv h hlow (by rwa [leBytes_length])
  · exact h
  · exact h

theorem perform_inv (a : Access) : (s.perform a).Inv := by
  cases a with
  | read off size => exact answer_inv h _
  | write off size data => exact answer_inv (written_inv h off size data) _

theorem takeInput_inv (i : Input) : (s.takeInput i).Inv := by
  have htail : State.Inv { s with inputs := s.inputs.tail } := { h with }
  cases i with
  | access a => exact perform_inv htail a
  | reset => exact platformReset_inv _

end

end Sys2Proof.Machine

namespace Sys2Proof.Proofs

open Sys2Proof Sys2Proof.Machine

/-- Settles O58: the invariant is kept by each of the three moves a step can be. -/
theorem stepKeepsTheInvariant : Obligations.StepKeepsTheInvariant := by
  intro s t hs hstep
  rcases step_cases hstep with ⟨-, -, rfl⟩ | ⟨-, hengine⟩ | ⟨i, -, -, -, rfl⟩
  · exact hs
  · exact engineStep_inv hs hengine
  · exact takeInput_inv hs i

end Sys2Proof.Proofs

namespace Sys2Proof.Machine

open Sys2Proof

/-! ### What every command leaves unchanged -/

@[simp] theorem readByte_setAcc (s : State) (acc : Half) (a : Nat) : (s.setAcc acc).readByte a = s.readByte a := rfl

@[simp] theorem readByte_setMfrOut (s : State) (m : MfrChars) (a : Nat) : (s.setMfrOut m).readByte a = s.readByte a := rfl

@[simp] theorem readByte_setDateOut (s : State) (d : DateRecord) (a : Nat) :
    (s.setDateOut d).readByte a = s.readByte a := rfl

@[simp] theorem readByte_setDateRef (s : State) (d : DateRecord) (a : Nat) :
    (s.setDateRef d).readByte a = s.readByte a := rfl

@[simp] theorem readByte_setHdr (s : State) (h : HdrRegs) (a : Nat) : (s.setHdr h).readByte a = s.readByte a := rfl

@[simp] theorem readByte_setSeg (s : State) (g : SegRegs) (a : Nat) : (s.setSeg g).readByte a = s.readByte a := rfl

@[simp] theorem readByte_setRd (s : State) (r : RdRegs) (a : Nat) : (s.setRd r).readByte a = s.readByte a := rfl

@[simp] theorem readByte_complete (s : State) (e : ErrCode) (a : Nat) : (s.complete e).readByte a = s.readByte a := rfl

/-- Only the result registers and the buffers can differ after the effects of a command. -/
theorem Writes.frame {s u : State} {i : Instr} (h : Writes s i u) :
    u = { s with
          crcAcc := u.crcAcc, mfrOut := u.mfrOut, dateRef := u.dateRef, dateOut := u.dateOut, hdr := u.hdr, seg := u.seg,
          rd := u.rd, mem := u.mem } := by
  cases h <;> rfl

/-- What the Engine's step leaves unchanged: all but the completion fields, the result registers and the buffers. -/
theorem engineStep_frame {s t : State} (ht : engineStep s = .next t) :
    t = { s with
          busy := false, status := ⟨true, t.status.err, s.status.lastop⟩, crcAcc := t.crcAcc, mfrOut := t.mfrOut,
          dateRef := t.dateRef, dateOut := t.dateOut, hdr := t.hdr, seg := t.seg, rd := t.rd, mem := t.mem } := by
  rcases engineStep_cases s with ⟨i, -, he⟩ | ⟨e, -, he⟩
  · obtain rfl := exec_next (he.symm.trans ht)
    have hframe := (effect_writes i s).frame
    generalize (effect i s).2 = u, (effect i s).1 = e at hframe ⊢
    exact congrArg (State.complete · e) hframe
  · cases he.symm.trans ht
    rfl

/-- The Engine writes no byte outside PAYLOAD_BUF (10_state R56). -/
theorem engineStep_readByte_outside {s t : State} (ht : engineStep s = .next t) {a : Nat} (ha : ¬ inPayloadBuf a) :
    t.readByte a = s.readByte a := by
  rcases engineStep_cases s with ⟨i, -, he⟩ | ⟨e, -, he⟩
  · obtain rfl := exec_next (he.symm.trans ht)
    exact effect_readByte_outside i s ha
  · cases he.symm.trans ht
    rfl

end Sys2Proof.Machine

namespace Sys2Proof.Proofs

open Sys2Proof Sys2Proof.Machine

/-- Settles O42: the Engine's step keeps all but the results, and every byte outside PAYLOAD_BUF. -/
theorem engineNeverWritesWhatTheHostOwns : Obligations.EngineNeverWritesWhatTheHostOwns := by
  intro s t ht
  have hframe := engineStep_frame ht
  refine ⟨?_, ?_, ?_, ?_, ?_, ?_, ?_, ?_, ?_, fun k hk => engineStep_readByte_outside ht (by omega)⟩
  all_goals rw [hframe]

/-- Settles O43, command by command: each writes only what `Writes` lists for it. -/
theorem resultsAreWrittenOnlyByTheirCommands : Obligations.ResultsAreWrittenOnlyByTheirCommands := by
  intro i s t ht
  obtain rfl := exec_next ht
  have hwrites := effect_writes i s
  generalize (effect i s).2 = u at hwrites ⊢
  cases hwrites <;> simp

end Sys2Proof.Proofs

namespace Sys2Proof.Machine

open Sys2Proof

/-! ### What the stages depend on -/

/-- Two states that hold the same telegram under the same configuration (10_state R61): the bytes below FRAME_LEN, FRAME_LEN,
CTRL and the checksum configuration agree; nothing else need. -/
structure SameTelegram (s s' : State) : Prop where
  ctrl : s'.ctrl = s.ctrl
  crcPoly : s'.crcPoly = s.crcPoly
  crcInit : s'.crcInit = s.crcInit
  crcXorout : s'.crcXorout = s.crcXorout
  frameLen : s'.frameLen = s.frameLen
  fb : ∀ k, k < s.len → k < 512 → s'.fb k = s.fb k

section
variable {s s' : State} (h : SameTelegram s s')
include h

theorem SameTelegram.len : s'.len = s.len := congrArg BitVec.toNat h.frameLen

theorem SameTelegram.crc16 (bs : List Byte) : s'.crc16 bs = s.crc16 bs := by
  simp only [State.crc16, h.crcPoly, h.crcInit, h.crcXorout]

theorem SameTelegram.checkPair (bs : List Byte) (p q : Byte) : s'.checkPair bs p q = s.checkPair bs p q := by
  simp only [State.checkPair, h.crc16, h.ctrl]

theorem SameTelegram.frameBytes {start n : Nat} (hlen : start + n ≤ s.len) (hbuf : start + n ≤ 512) :
    s'.frameBytes start n = s.frameBytes start n :=
  readBytes_congr fun k hk => by
    rw [Nat.add_assoc]
    exact h.fb (start + k) (by omega) (by omega)

theorem SameTelegram.parsedHdr (hlen : 24 ≤ s.len) : s'.parsedHdr = s.parsedHdr := by
  have hfb : ∀ k, k < 12 → s'.fb k = s.fb k := fun k hk => h.fb k (by omega) (by omega)
  have hbytes : s'.frameBytes 0 10 = s.frameBytes 0 10 := h.frameBytes (by omega) (by decide)
  simp [State.parsedHdr, h.checkPair, hbytes, hfb]

theorem SameTelegram.segmentation (hlen : 24 ≤ s.len) : s'.segmentation = s.segmentation := by
  rw [State.segmentation, h.fb 0 (by omega) (by decide), segLoop_congr h.len h.fb h.checkPair 16 12 _ (by decide)]
  rfl

theorem SameTelegram.segRegs (hlen : 24 ≤ s.len) (g : Segmentation) : s'.segRegs g = s.segRegs g := by
  simp only [State.segRegs, h.len, h.fb 0 (by omega) (by decide)]

theorem SameTelegram.stagedPayload : s'.stagedPayload = s.stagedPayload := by
  unfold State.stagedPayload
  rw [h.len]
  split
  · rfl
  · next hlen => rw [h.segmentation (Nat.le_of_not_lt hlen)]

/-- The header stage leaves the telegram and the configuration. -/
theorem SameTelegram.after_hdrStage : SameTelegram (hdrStage s).2 (hdrStage s').2 := by
  rw [hdrStage_writes s, hdrStage_writes s']
  exact { h with }

theorem SameTelegram.hdrStage_hdr : (hdrStage s').2.hdr = (hdrStage s).2.hdr := by
  by_cases hlen : s.len < 24
  · rw [hdrStage_short hlen, hdrStage_short (h.len ▸ hlen)]
    rfl
  · have hle := Nat.le_of_not_lt hlen
    rw [hdrStage_full hle, hdrStage_full (h.len.symm ▸ hle)]
    exact h.parsedHdr hle

theorem SameTelegram.segStage_seg : (segStage s').2.seg = (segStage s).2.seg := by
  by_cases hlen : s.len < 24
  · rw [segStage_short hlen, segStage_short (h.len ▸ hlen)]
    rfl
  · have hle := Nat.le_of_not_lt hlen
    rw [segStage_full hle, segStage_full (h.len.symm ▸ hle), h.segmentation hle]
    exact h.segRegs hle _

/-- The segmentation stage overwrites all of PAYLOAD_BUF (43_frame R175). -/
theorem SameTelegram.segStage_pb {k : Nat} (hk : k < 256) : (segStage s').2.pb k = (segStage s).2.pb k := by
  have hin : inPayloadBuf (0x600 + k) := ⟨by omega, by omega⟩
  rw [State.pb, State.pb, segStage_readByte, segStage_readByte, if_pos hin, if_pos hin, h.stagedPayload]

end

theorem payload16_congr {g g' : State} (hpb : ∀ k, k < 256 → g'.pb k = g.pb k) {o : Nat} (ho : o < 255) :
    g'.payload16 o = g.payload16 o := by
  rw [State.payload16, State.payload16, hpb o (by omega), hpb (o + 1) (by omega)]

/-- The payload stage depends on PAY_LEN, PAYLOAD_BUF and CTRL alone; DATE_REF too, where it succeeds (43_frame R178). -/
theorem appStage_congr {g g' : State} (hctrl : g'.ctrl = g.ctrl) (hseg : g'.seg = g.seg)
    (hpb : ∀ k, k < 256 → g'.pb k = g.pb k) :
    (appStage g').1 = (appStage g).1 ∧ (appStage g').2.rd = (appStage g).2.rd ∧
      ((appStage g).1 = .success → (appStage g').2.dateRef = (appStage g).2.dateRef) := by
  have hpay : g'.payLen = g.payLen := congrArg (fun x : SegRegs => x.payLen.toNat) hseg
  by_cases hlen : g.payLen < 13
  · rw [appStage_short hlen, appStage_short (hpay ▸ hlen)]
    exact ⟨rfl, rfl, nofun⟩
  · have hle := Nat.le_of_not_lt hlen
    have hpb0 : g'.pb 0 = g.pb 0 := hpb 0 (by decide)
    have h16 : ∀ o, o < 255 → g'.payload16 o = g.payload16 o := fun o ho => payload16_congr hpb ho
    have hlast : g'.lastDate = g.lastDate := by rw [State.lastDate, h16 1 (by decide), State.lastDate]
    have hrd : g'.parsedRd = g.parsedRd := by simp [State.parsedRd, hpb0, h16, hlast, hctrl, hpay]
    rw [appStage_full hle, appStage_full (hpay.symm ▸ hle)]
    exact ⟨rfl, hrd, fun _ => hlast⟩

/-- The first code that is not NONE is NONE where both are (43_frame R183). -/
theorem ErrCode.orElse_eq_success {e f : ErrCode} : e.orElse f = .success ↔ e = .success ∧ f = .success := by
  cases e <;> simp [ErrCode.orElse]

theorem segStage_ctrl (s : State) : (segStage s).2.ctrl = s.ctrl := by rw [segStage_writes]; rfl

theorem segStage_hdr (s : State) : (segStage s).2.hdr = s.hdr := by rw [segStage_writes]; rfl

theorem appStage_hdr (s : State) : (appStage s).2.hdr = s.hdr := by rw [appStage_writes]; rfl

theorem appStage_seg (s : State) : (appStage s).2.seg = s.seg := by rw [appStage_writes]; rfl

/-- What FRAME_DECODE leaves is in each result what the stage that writes it left (43_frame R183). -/
theorem frameDecode_results {s t : State} (ht : exec .frameDecode s = .next t) :
    t.hdr = (hdrStage s).2.hdr ∧
    t.seg = (segStage (hdrStage s).2).2.seg ∧
    t.rd = (appStage (segStage (hdrStage s).2).2).2.rd ∧
    t.dateRef = (appStage (segStage (hdrStage s).2).2).2.dateRef ∧
    t.status.err =
      (hdrStage s).1.orElse ((segStage (hdrStage s).2).1.orElse (appStage (segStage (hdrStage s).2).2).1) ∧
    ∀ k, t.pb k = (segStage (hdrStage s).2).2.pb k := by
  obtain rfl := exec_next ht
  simp [effect, State.pb, appStage_hdr, segStage_hdr, appStage_seg, appStage_readByte]

end Sys2Proof.Machine

namespace Sys2Proof.Proofs

open Sys2Proof Sys2Proof.Machine

/-- Settles O40: the header and segmentation stages see only the telegram and the configuration, and the payload stage sees only
what the segmentation stage left. -/
theorem noStateCrossesTelegrams : Obligations.NoStateCrossesTelegrams := by
  intro s s' t t' hctrl hpoly hinit hxorout hframeLen hfb ht ht'
  have same : SameTelegram s s' := ⟨hctrl, hpoly, hinit, hxorout, hframeLen, hfb⟩
  have sameSeg := same.after_hdrStage
  have hctrlSeg : (segStage (hdrStage s').2).2.ctrl = (segStage (hdrStage s).2).2.ctrl := by
    rw [segStage_ctrl, segStage_ctrl, sameSeg.ctrl]
  obtain ⟨hcode, hrd, hdateRef⟩ := appStage_congr hctrlSeg sameSeg.segStage_seg fun k hk => sameSeg.segStage_pb hk
  obtain ⟨thdr, tseg, trd, tdateRef, terr, tpb⟩ := frameDecode_results ht
  obtain ⟨thdr', tseg', trd', tdateRef', terr', tpb'⟩ := frameDecode_results ht'
  refine ⟨?_, ?_, ?_, ?_, fun k hk => ?_, fun hsuccess => ?_⟩
  · rw [thdr, thdr', same.hdrStage_hdr]
  · rw [tseg, tseg', sameSeg.segStage_seg]
  · rw [trd, trd', hrd]
  · simp only [terr, terr', hdrStage_code, segStage_code, same.len, sameSeg.len, hcode]
  · rw [tpb, tpb', sameSeg.segStage_pb hk]
  · rw [terr, ErrCode.orElse_eq_success, ErrCode.orElse_eq_success] at hsuccess
    rw [tdateRef, tdateRef', hdateRef hsuccess.2.2]

end Sys2Proof.Proofs

namespace Sys2Proof.Machine

open Sys2Proof

/-! ### The bits of register words -/

theorem getLsbD_place {n : Nat} (v : BitVec n) (k i : Nat) (hi : i < 32) :
    (place v k).getLsbD i = (decide (k ≤ i) && v.getLsbD (i - k)) := by
  rw [place, BitVec.getLsbD_shiftLeft, BitVec.getLsbD_setWidth]
  by_cases hk : k ≤ i
  · simp [hk, hi, show i - k < 32 by omega, Nat.not_lt.2 hk]
  · simp [hk, Nat.lt_of_not_le hk]

/-- A field placed in a word has only bits of its place (10_state R23). -/
theorem place_and_ones {n : Nat} (v : BitVec n) (k : Nat) : place v k &&& place (BitVec.allOnes n) k = place v k := by
  apply BitVec.eq_of_getLsbD_eq
  intro i hi
  rw [BitVec.getLsbD_and, getLsbD_place _ _ _ hi, getLsbD_place _ _ _ hi, BitVec.getLsbD_allOnes]
  by_cases hn : i - k < n
  · rw [decide_eq_true hn, Bool.and_true, Bool.and_right_comm, Bool.and_self]
  · simp [BitVec.getLsbD_of_ge v (i - k) (Nat.le_of_not_lt hn)]

/-- A mask with all bits of a field's place keeps the field. -/
theorem place_and_mask {n k : Nat} {mask : Word} (v : BitVec n)
    (hmask : place (BitVec.allOnes n) k &&& mask = place (BitVec.allOnes n) k) : place v k &&& mask = place v k := by
  rw [← place_and_ones v k, BitVec.and_assoc, hmask]

theorem placeBit_and_mask {k : Nat} {mask : Word} (b : Bool)
    (hmask : place (BitVec.allOnes 1) k &&& mask = place (BitVec.allOnes 1) k) : placeBit b k &&& mask = placeBit b k :=
  place_and_mask _ hmask

/-- A field placed where it was taken from is the word's bits there. -/
theorem place_extractLsb' (w : Word) (k n : Nat) :
    place (w.extractLsb' k n) k = w &&& place (BitVec.allOnes n) k := by
  apply BitVec.eq_of_getLsbD_eq
  intro i hi
  rw [BitVec.getLsbD_and, getLsbD_place _ _ _ hi, getLsbD_place _ _ _ hi, BitVec.getLsbD_allOnes,
    BitVec.getLsbD_extractLsb']
  by_cases hk : k ≤ i
  · simp [hk, Bool.and_comm]
  · simp [hk]

theorem placeBit_getLsbD (w : Word) (k : Nat) : placeBit (w.getLsbD k) k = w &&& place (BitVec.allOnes 1) k := by
  have hbit : BitVec.ofBool (w.getLsbD k) = w.extractLsb' k 1 := by
    apply BitVec.eq_of_getLsbD_eq
    intro i hi
    obtain rfl : i = 0 := by omega
    simp
  rw [placeBit, hbit, place_extractLsb']

/-- The low half of a written word reads back with the upper half 0 (10_state R29-R31). -/
theorem place_setWidth_half (w : Word) : place (w.setWidth 16 : Half) 0 = w &&& 0x0000FFFF := by
  rw [BitVec.setWidth_eq_extractLsb' (by decide), place_extractLsb']
  rfl

/-- CTRL reads back the bits written to its fields (10_state R24). -/
theorem Ctrl.word_ofWord (w : Word) : (Ctrl.ofWord w).word = w &&& 0x00000007 := by
  simp only [Ctrl.word, Ctrl.ofWord, placeBit_getLsbD, ← BitVec.and_or_distrib_left]
  rfl

/-- A date register reads back the bits written to its fields (10_state R34, R35). -/
theorem DateRecord.word_ofWord (w : Word) : (DateRecord.ofWord w).word = w &&& 0x9FFFFFFF := by
  simp only [DateRecord.word, DateRecord.ofWord, placeBit_getLsbD, place_extractLsb', ← BitVec.and_or_distrib_left]
  rfl

/-- The number in bits `lo + n - 1 : lo` of a word is that of the field there. -/
theorem bitsOf_toNat (w : Word) (lo n : Nat) : Claims.bitsOf w.toNat lo n = (w.extractLsb' lo n).toNat := by
  rw [BitVec.extractLsb'_toNat, Nat.shiftRight_eq_div_pow, Claims.bitsOf]

theorem bitsOf_one (w : Word) (k : Nat) : Claims.bitsOf w.toNat k 1 = (w.getLsbD k).toNat := by
  rw [BitVec.getLsbD, Nat.toNat_testBit, Claims.bitsOf, pow_one]

theorem statusWord_done (s : State) : s.statusWord.getLsbD 1 = s.status.done := by
  simp only [State.statusWord, placeBit, BitVec.getLsbD_or, getLsbD_place _ _ 1 (show 1 < 32 by decide)]
  simp

theorem Ctrl.word_ie (c : Ctrl) : c.word.getLsbD 0 = c.ie := by
  simp only [Ctrl.word, placeBit, BitVec.getLsbD_or, getLsbD_place _ _ 0 (show 0 < 32 by decide)]
  simp

/-! ### Writes to the configuration registers -/

/-- The registers that hold what the Host configures (10_state R24, R28-R31, R35). -/
inductive ConfigReg : Reg → Prop where
  | ctrl : ConfigReg .ctrl
  | frameLen : ConfigReg .frameLen
  | crcPoly : ConfigReg .crcPoly
  | crcInit : ConfigReg .crcInit
  | crcXorout : ConfigReg .crcXorout
  | dateRef : ConfigReg .dateRef

/-- They are the writable ones but for STATUS and CMD (10_state R22). -/
theorem configReg_of_hostWritable {r : Reg} (hr : r ∈ Claims.hostWritable) (hstatus : r ≠ .status) (hcmd : r ≠ .cmd) :
    ConfigReg r := by
  simp only [Claims.hostWritable, List.mem_cons, List.not_mem_nil, or_false] at hr
  rcases hr with rfl | rfl | rfl | rfl | rfl | rfl | rfl | rfl
  · exact .ctrl
  · exact absurd rfl hstatus
  · exact absurd rfl hcmd
  · exact .frameLen
  · exact .crcPoly
  · exact .crcInit
  · exact .crcXorout
  · exact .dateRef

/-- A configuration register reads back what was written, as far as it has fields for it. -/
theorem readReg_writeReg_same {r : Reg} (hr : ConfigReg r) (s : State) (w : Word) :
    (s.writeReg r w).readReg r = Claims.storedWord w r := by
  cases hr with
  | ctrl => exact Ctrl.word_ofWord w
  | frameLen =>
    apply BitVec.eq_of_toNat_eq
    simp only [State.writeReg, State.readReg, Claims.storedWord, place_toNat _ 0 (show 10 + 0 ≤ 32 by decide),
      BitVec.toNat_ofNat]
    omega
  | crcPoly => exact place_setWidth_half w
  | crcInit => exact place_setWidth_half w
  | crcXorout => exact place_setWidth_half w
  | dateRef => exact DateRecord.word_ofWord w

/-- Each field takes its own bits of the written word, and FRAME_LEN at most 512. -/
theorem storedFields_writeReg {r : Reg} (hr : ConfigReg r) (s : State) (w : Word) :
    Claims.storedFields w.toNat (s.writeReg r w) r := by
  have hhalf : (w.setWidth 16).toNat = Claims.bitsOf w.toNat 0 16 := by simp [Claims.bitsOf]
  cases hr with
  | ctrl => exact ⟨(bitsOf_one w 0).symm, (bitsOf_one w 1).symm, (bitsOf_one w 2).symm⟩
  | frameLen =>
    simp only [Claims.storedFields, State.writeReg, BitVec.toNat_ofNat]
    omega
  | crcPoly => exact hhalf
  | crcInit => exact hhalf
  | crcXorout => exact hhalf
  | dateRef =>
    exact ⟨(bitsOf_toNat w 0 16).symm, (bitsOf_toNat w 16 8).symm, (bitsOf_toNat w 24 5).symm, (bitsOf_one w 31).symm⟩

/-- No other register changes but CRC_OUT, which is computed from CRC_XOROUT at the read (10_state R32). -/
theorem readReg_writeReg_other {r q : Reg} (hr : ConfigReg r) (hq : q ≠ r) (hout : q = .crcOut → r ≠ .crcXorout)
    (s : State) (w : Word) : (s.writeReg r w).readReg q = s.readReg q := by
  cases hr with
  | ctrl =>
    cases q with
    | ctrl => exact absurd rfl hq
    | _ => rfl
  | frameLen =>
    cases q with
    | frameLen => exact absurd rfl hq
    | _ => rfl
  | crcPoly =>
    cases q with
    | crcPoly => exact absurd rfl hq
    | _ => rfl
  | crcInit =>
    cases q with
    | crcInit => exact absurd rfl hq
    | _ => rfl
  | crcXorout =>
    cases q with
    | crcXorout => exact absurd rfl hq
    | crcOut => exact absurd rfl (hout rfl)
    | _ => rfl
  | dateRef =>
    cases q with
    | dateRef => exact absurd rfl hq
    | _ => rfl

/-- A write to a register changes no byte of memory. -/
theorem writeReg_readByte (s : State) (r : Reg) (w : Word) (a : Nat) : (s.writeReg r w).readByte a = s.readByte a := by
  cases r with
  | status => simp only [State.writeReg]; split <;> rfl
  | _ => rfl

theorem ConfigReg.writeReg_inputs {r : Reg} (hr : ConfigReg r) (s : State) (w : Word) :
    (s.writeReg r w).inputs = s.inputs := by cases hr <;> rfl

theorem ConfigReg.writeReg_answers {r : Reg} (hr : ConfigReg r) (s : State) (w : Word) :
    (s.writeReg r w).answers = s.answers := by cases hr <;> rfl

/-- Only DONE can change by a write to STATUS, and it falls by a 1 in bit 1 (10_state R25). -/
theorem writeReg_status (s : State) (w : Word) :
    s.writeReg .status w = { s with status := { s.status with done := s.status.done && !w.getLsbD 1 } } := by
  cases hbit : w.getLsbD 1
  · simp only [State.writeReg, hbit, Bool.not_false, Bool.and_true, Bool.false_eq_true, if_false]
  · simp only [State.writeReg, hbit, Bool.not_true, Bool.and_false, if_true]

end Sys2Proof.Machine

namespace Sys2Proof.Proofs

open Sys2Proof Sys2Proof.Machine

/-- Settles O44: a register's word is built of placed fields, and `fieldBits` has every bit of each place. -/
theorem reservedBitsReadZero : Obligations.ReservedBitsReadZero := by
  intro s r
  cases r with
  | cmd => exact BitVec.and_allOnes
  | hdrAddr => exact BitVec.and_allOnes
  | _ =>
    simp (disch := decide) only [State.readReg, Claims.fieldBits, Ctrl.word, State.statusWord, MfrChars.word, DateRecord.word,
      halvesWord, SegRegs.statWord, BlkInfo.word, BitVec.and_or_distrib_right, place_and_mask, placeBit_and_mask]

/-- Settles O45: the map reaches each register at its own offset, and a read has no effect. -/
theorem registersAreReadAtTheirOffsets : Obligations.RegistersAreReadAtTheirOffsets := by
  refine ⟨fun s r rest hb hi => ?_, fun off r h => target_eq_reg h⟩
  rw [step_idle_read hb hi, readAnswer_reg]

/-- Settles O51: a read-only register and PAYLOAD_BUF are legal targets that keep their values. -/
theorem readOnlyStateIgnoresWrites : Obligations.ReadOnlyStateIgnoresWrites := by
  rintro s off size v rest hb (⟨r, hr, rfl, rfl⟩ | ⟨hpay, halign⟩) hi
  · rw [step_idle_writeReg hb hi, writeReg_readOnly hr]
    rfl
  · have hoff : (BitVec.ofNat 12 off).toNat = off := by rw [BitVec.toNat_ofNat]; omega
    rw [step_idle_write hb hi, State.written, writeAnswer, hoff, target_payloadBuf hpay halign]
    rfl

/-- Settles O52: what a configuration register stores, and what its write leaves unchanged. -/
theorem configurationWritesStoreTheirFields : Obligations.ConfigurationWritesStoreTheirFields := by
  intro s r w rest hb hr hstatus hcmd hi
  have hconfig := configReg_of_hostWritable hr hstatus hcmd
  refine ⟨_, step_idle_writeReg hb hi, ?_, ?_, ?_, ?_, fun q hq hout => ?_, fun a => ?_⟩
  · rw [readReg_answer, readReg_writeReg_same hconfig]
  · have hstored := storedFields_writeReg hconfig { s with inputs := rest } w
    cases hconfig <;> exact hstored
  · rw [State.answer_inputs, hconfig.writeReg_inputs]
  · rw [State.answer_answers, hconfig.writeReg_answers]
  · rw [readReg_answer, readReg_writeReg_other hconfig hq hout, readReg_inputs]
  · exact writeReg_readByte _ r w a

/-- Settles O53: the write clears DONE by its bit 1, and IRQ is DONE and IE as STATUS and CTRL show them. -/
theorem statusWriteAcknowledgesTheInterrupt : Obligations.StatusWriteAcknowledgesTheInterrupt := by
  intro s w rest hb hi
  have hstep := step_idle_writeReg (r := .status) hb hi
  rw [writeReg_status] at hstep
  refine ⟨_, hstep, rfl, rfl, rfl, ?_, ?_⟩
  · rw [bitsOf_one]
    simp
  · rw [bitsOf_one, bitsOf_one, State.irq, readReg_answer, readReg_answer]
    simp only [State.readReg, statusWord_done, Ctrl.word_ie]
    simp

end Sys2Proof.Proofs

namespace Sys2Proof.Machine

open Sys2Proof

/-! ### Which accesses are refused, and which reach a buffer -/

/-- A misaligned access reaches nothing (20_memory R74). -/
theorem target_misaligned {off n : Nat} (h : off % n ≠ 0) : target off n = none := if_pos h

/-- An access narrower than a word reaches no register (20_memory R75). -/
theorem target_narrow {off n : Nat} (hoff : off < 0x400) (hn : n < 4) : target off n = none := by
  unfold target
  split_ifs
  · rfl
  · omega
  · rfl

/-- The map places no register in the unmapped ranges (10_state R22, 20_memory R76). -/
theorem regOffset_mapped (r : Reg) : ¬ Claims.unmapped (Claims.regOffset r) := by
  unfold Claims.unmapped
  cases r with
  | blkInfo i | blkCrc i => simp only [Claims.regOffset]; omega
  | _ => decide

/-- An unmapped offset holds neither a register nor a buffer byte (20_memory R76). -/
theorem target_unmapped {off : Nat} (n : Nat) (h : Claims.unmapped off) : target off n = none := by
  have hreg : regAt off = none := by
    by_contra hsome
    obtain ⟨r, hr⟩ := Option.ne_none_iff_exists'.1 hsome
    exact regOffset_mapped r ((regAt_eq_some_iff off r).1 hr ▸ h)
  unfold Claims.unmapped at h
  unfold target
  rw [hreg]
  split_ifs
  · rfl
  · rfl
  · rfl
  · omega
  · omega
  · rfl

/-- Every word of the register region up to BLK_CRC[15] is a register or in an unmapped range (10_state R22). -/
theorem regAt_isSome_of_mapped : ∀ k < 0x60, ¬ Claims.unmapped (4 * k) → (regAt (4 * k)).isSome = true := by
  unfold Claims.unmapped
  decide

/-- An aligned word of the window outside the unmapped ranges is mapped (20_memory R76). -/
theorem target_isSome_of_mapped {off : Nat} (hoff : off < 0x1000) (halign : off % 4 = 0) (h : ¬ Claims.unmapped off) :
    (target off 4).isSome = true := by
  have hreg : off < 0x180 → (regAt off).isSome = true := fun hlow => by
    have hword : 4 * (off / 4) = off := by omega
    exact hword ▸ regAt_isSome_of_mapped (off / 4) (by omega) (hword.symm ▸ h)
  unfold Claims.unmapped at h
  unfold target
  rw [if_neg (by omega), if_pos (rfl : 4 = 4)]
  split_ifs
  · rw [Option.isSome_map, hreg (by omega)]
  · rfl
  · rfl
  · omega

theorem target_frameBuf {off : Nat} {size : AccessSize} (h : inFrameBuf off) (ha : off % size.bytes = 0) :
    target off size.bytes = some (.frameBuf off) := by
  unfold target
  rw [if_neg (by omega), if_neg (by omega), if_pos h.2]

/-- Where an access reaches nothing, its performance is the answer ERROR and has no effect (20_memory R71). -/
theorem refusedWithError_of_target {s : State} {a : Access} {rest : List Input} (hb : s.busy = false)
    (hi : s.inputs = .access a :: rest) (h : target (Claims.accessOffset a) (Claims.accessBytes a) = none) :
    Claims.refusedWithError s rest := by
  unfold Claims.refusedWithError
  cases a with
  | read off size =>
    have h' : target off.toNat size.bytes = none := h
    rw [step_idle_read hb hi, State.readAnswer, h']
  | write off size data =>
    have h' : target off.toNat size.bytes = none := h
    rw [step_idle_write hb hi, State.written, writeAnswer, h']
    rfl

/-! ### The bytes of a written and of a read word -/

/-- Byte k of a word assembled from at most four bytes is the k-th of them (20_memory R79). -/
theorem bitsOf_leWord {bs : List Byte} (h : bs.length ≤ 4) (k : Nat) :
    Claims.bitsOf (leWord bs).toNat (8 * k) 8 = ((bs[k]?).getD 0).toNat := by
  induction bs generalizing k with
  | nil => simp [leWord, Claims.bitsOf]
  | cons b bs ih =>
    have hlen : bs.length ≤ 3 := Nat.le_of_succ_le_succ h
    have hlt : (leWord bs).toNat < 2 ^ 24 :=
      lt_of_lt_of_le (leWord_lt bs (by omega)) (Nat.pow_le_pow_right (by decide) (by omega))
    have hb := b.isLt
    rw [leWord_cons_toNat b bs hlt]
    cases k with
    | zero =>
      simp only [Claims.bitsOf, List.getElem?_cons_zero, Option.getD_some]
      omega
    | succ k =>
      have hdrop : (b.toNat + 2 ^ 8 * (leWord bs).toNat) / 2 ^ 8 = (leWord bs).toNat := by omega
      rw [List.getElem?_cons_succ, ← ih (by omega) k, Claims.bitsOf, Claims.bitsOf, show 8 * (k + 1) = 8 + 8 * k by omega,
        Nat.pow_add, ← Nat.div_div_eq_div_mul, hdrop]

/-- Byte k of a written value is its bits 8k + 7 to 8k (20_memory R78). -/
theorem leBytes_byte_toNat {n k : Nat} (v : Word) (hk : k < n) (b : Byte) :
    (((leBytes n v)[k]?).getD b).toNat = Claims.bitsOf v.toNat (8 * k) 8 := by
  rw [leBytes_getElem?, if_pos hk, Option.getD_some, bitsOf_toNat, BitVec.extractLsb'_toNat, BitVec.toNat_setWidth,
    BitVec.toNat_ushiftRight]

/-- The port's 12 offset bits hold every offset of the window (20_memory R72). -/
theorem offset_toNat {off : Nat} (h : off < 0x1000) : (BitVec.ofNat 12 off).toNat = off := by
  rw [BitVec.toNat_ofNat, Nat.mod_eq_of_lt h]

theorem AccessSize.bytes_le (size : AccessSize) : size.bytes ≤ 4 := by cases size <;> decide

/-- FRAME_BUF begins at an offset that is aligned for every size of access (20_memory R73). -/
theorem frameBuf_aligned {i : Nat} {size : AccessSize} (h : i % size.bytes = 0) : (0x400 + i) % size.bytes = 0 := by
  cases size <;> simp only [AccessSize.bytes] at h ⊢ <;> omega

/-- A legal read of a buffer answers its bytes as a word (20_memory R79). -/
theorem readAnswer_buffer (s : State) {a : Nat} {size : AccessSize} (h : inFrameBuf a ∨ inPayloadBuf a)
    (ha : a % size.bytes = 0) :
    s.readAnswer (BitVec.ofNat 12 a) size = .data (leWord (s.readBytes a size.bytes)) := by
  unfold State.readAnswer
  rw [offset_toNat (by omega)]
  rcases h with hframe | hpay
  · rw [target_frameBuf hframe ha]
  · rw [target_payloadBuf hpay ha]

/-- The step of an idle SMCORE with a legal FRAME_BUF write pending stores its bytes and answers OKAY (20_memory R78). -/
theorem step_idle_frameBufWrite {s : State} {a : Nat} {size : AccessSize} {v : Word} {rest : List Input}
    (hb : s.busy = false) (h : inFrameBuf a) (ha : a % size.bytes = 0)
    (hi : s.inputs = .access (.write (BitVec.ofNat 12 a) size v) :: rest) :
    step s = .next { s.setMem (s.mem.storeBytes a (leBytes size.bytes v)) with
                     inputs := rest, answers := s.answers ++ [.okay] } := by
  rw [step_idle_write hb hi, State.written, writeAnswer, offset_toNat (by omega), target_frameBuf h ha]
  rfl

/-! ### The platform's window -/

/-- The window holds one address for each offset (20_memory R72). -/
theorem portOffset_eq_some_iff (addr : Nat) (off : BitVec 12) :
    portOffset addr = some off ↔ addr = Config.smcoreBase + off.toNat := by
  have hbase : Config.smcoreBase % 0x1000 = 0 := Nat.mul_mod_right _ _
  have hoff := off.isLt
  unfold portOffset
  split
  · rw [Option.some_inj, ← BitVec.toNat_inj, BitVec.toNat_ofNat]
    omega
  · simp only [reduceCtorEq, false_iff]
    omega

end Sys2Proof.Machine

namespace Sys2Proof.Proofs

open Sys2Proof Sys2Proof.Machine

/-- Settles O46: a misaligned access reaches nothing. -/
theorem misalignedAccessesAnswerError : Obligations.MisalignedAccessesAnswerError :=
  fun _ _ _ hb hi halign => refusedWithError_of_target hb hi (target_misaligned halign)

/-- Settles O47: a narrow access reaches no register. -/
theorem narrowRegisterAccessesAnswerError : Obligations.NarrowRegisterAccessesAnswerError :=
  fun _ _ _ hb hi hoff hbytes => refusedWithError_of_target hb hi (target_narrow hoff hbytes)

/-- Settles O48: nothing is at an unmapped offset, and something at every other aligned word. -/
theorem unmappedAccessesAnswerError : Obligations.UnmappedAccessesAnswerError :=
  ⟨fun _ _ _ hb hi hoff => refusedWithError_of_target hb hi (target_unmapped _ hoff),
    fun off halign hoff => target_isSome_of_mapped off.isLt halign hoff⟩

/-- Settles O49: the bytes stored are those of the value, and lie in FRAME_BUF from the access's offset on. -/
theorem frameBufWriteStoresLittleEndian : Obligations.FrameBufWriteStoresLittleEndian := by
  intro s i size v rest hb hlt halign hi
  have hframe : inFrameBuf (0x400 + i) := ⟨by omega, by omega⟩
  have hfit := (target_eq_frameBuf (target_frameBuf hframe (frameBuf_aligned halign))).2
  have hread := readByte_storeBytes s (0x400 + i) (leBytes size.bytes v) fun k hk => by
    rw [leBytes_length] at hk
    exact .inl ⟨by omega, by omega⟩
  refine ⟨_, step_idle_frameBufWrite hb hframe (frameBuf_aligned halign) hi, rfl, fun k hk => ?_, fun a ha => ?_⟩
  · refine (congrArg BitVec.toNat (hread (0x400 + (i + k)))).trans ?_
    rw [if_pos (by omega), show 0x400 + (i + k) - (0x400 + i) = k by omega, leBytes_byte_toNat v hk]
  · refine (hread a).trans ?_
    split
    · rw [List.getElem?_eq_none (by rw [leBytes_length]; omega), Option.getD_none]
    · rfl

/-- Settles O50: the word read is assembled from the buffer's bytes. -/
theorem bufferReadAssemblesLittleEndian : Obligations.BufferReadAssemblesLittleEndian := by
  intro s a size rest hb hbuf halign hi
  have hlen : (s.readBytes a size.bytes).length = size.bytes := readBytes_length s a size.bytes
  have hle : (s.readBytes a size.bytes).length ≤ 4 := hlen.trans_le size.bytes_le
  refine ⟨leWord (s.readBytes a size.bytes), ?_, fun k hk => ?_, ?_⟩
  · rw [step_idle_read hb hi, readAnswer_buffer s hbuf halign]
  · rw [bitsOf_leWord hle, readBytes_getElem?, if_pos hk, Option.getD_some]
  · exact (leWord_lt _ hle).trans_eq (by rw [hlen])

/-- Settles O54: an address reaches the port exactly at the offset it lies above the window's base. -/
theorem windowAddressesReachTheirOffsets : Obligations.WindowAddressesReachTheirOffsets :=
  ⟨fun off => (portOffset_eq_some_iff _ off).2 rfl, fun addr off h => (portOffset_eq_some_iff addr off).1 h⟩

end Sys2Proof.Proofs

namespace Sys2Proof.Machine

open Sys2Proof

/-! ### States that agree below FRAME_LEN -/

/-- DATE_REF after the payload stage depends on DATE_REF before it, beside PAY_LEN, PAYLOAD_BUF and CTRL (43_frame R178). -/
theorem appStage_dateRef_congr {g g' : State} (hctrl : g'.ctrl = g.ctrl) (hseg : g'.seg = g.seg)
    (hpb : ∀ k, k < 256 → g'.pb k = g.pb k) (hdateRef : g'.dateRef = g.dateRef) :
    (appStage g').2.dateRef = (appStage g).2.dateRef := by
  by_cases hlen : g.payLen < 13
  · have hlen' : g'.payLen < 13 := by rwa [State.payLen, hseg]
    rw [appStage_short hlen, appStage_short hlen']
    exact hdateRef
  · obtain ⟨-, -, hsuccess⟩ := appStage_congr hctrl hseg hpb
    exact hsuccess (by rw [appStage_code, if_neg hlen])

/-- Two states that differ at most in FRAME_BUF bytes at or above FRAME_LEN: every other field agrees, and so do the bytes
below FRAME_LEN and PAYLOAD_BUF. -/
structure AgreeBelowLen (s s' : State) : Prop where
  rest : s' = { s with mem := s'.mem, drawEpoch := s'.drawEpoch }
  fb : ∀ k, k < s.len → k < 512 → s'.fb k = s.fb k
  pb : ∀ k, k < 256 → s'.pb k = s.pb k

section
variable {s s' : State} (h : AgreeBelowLen s s')
include h

theorem AgreeBelowLen.sameTelegram : SameTelegram s s' where
  ctrl := by rw [h.rest]
  crcPoly := by rw [h.rest]
  crcInit := by rw [h.rest]
  crcXorout := by rw [h.rest]
  frameLen := by rw [h.rest]
  fb := h.fb

theorem AgreeBelowLen.setHdr (x : HdrRegs) : AgreeBelowLen (s.setHdr x) (s'.setHdr x) :=
  { h with rest := congrArg (State.setHdr · x) h.rest }

theorem AgreeBelowLen.setRd (x : RdRegs) : AgreeBelowLen (s.setRd x) (s'.setRd x) :=
  { h with rest := congrArg (State.setRd · x) h.rest }

theorem AgreeBelowLen.setDateRef (x : DateRecord) : AgreeBelowLen (s.setDateRef x) (s'.setDateRef x) :=
  { h with rest := congrArg (State.setDateRef · x) h.rest }

theorem AgreeBelowLen.complete (e : ErrCode) : AgreeBelowLen (s.complete e) (s'.complete e) :=
  { h with rest := congrArg (State.complete · e) h.rest }

theorem AgreeBelowLen.after_hdrStage :
    (hdrStage s').1 = (hdrStage s).1 ∧ AgreeBelowLen (hdrStage s).2 (hdrStage s').2 := by
  refine ⟨by rw [hdrStage_code, hdrStage_code, h.sameTelegram.len], ?_⟩
  rw [hdrStage_writes s, hdrStage_writes s', h.sameTelegram.hdrStage_hdr]
  exact h.setHdr _

/-- The segmentation stage reads FRAME_BUF below FRAME_LEN and overwrites PAYLOAD_BUF (43_frame R174, R175). -/
theorem AgreeBelowLen.after_segStage :
    (segStage s').1 = (segStage s).1 ∧ AgreeBelowLen (segStage s).2 (segStage s').2 := by
  have hlen : (segStage s).2.len = s.len := by rw [segStage_writes]; rfl
  have hfb : ∀ (u : State) k, k < 512 → (segStage u).2.fb k = u.fb k := fun u k hk =>
    (segStage_readByte u _).trans (if_neg (by omega))
  refine ⟨by rw [segStage_code, segStage_code, h.sameTelegram.len], ⟨?_, fun k hk h512 => ?_, fun k hk => ?_⟩⟩
  · rw [segStage_writes s, segStage_writes s', h.sameTelegram.segStage_seg]
    exact congrArg (fun u : State => (u.setSeg (segStage s).2.seg).setMem (segStage s').2.mem) h.rest
  · rw [hfb s k h512, hfb s' k h512, h.fb k (hlen ▸ hk) h512]
  · exact h.sameTelegram.segStage_pb hk

/-- The payload stage reads no byte of FRAME_BUF (43_frame R178). -/
theorem AgreeBelowLen.after_appStage :
    (appStage s').1 = (appStage s).1 ∧ AgreeBelowLen (appStage s).2 (appStage s').2 := by
  have hctrl : s'.ctrl = s.ctrl := by rw [h.rest]
  have hseg : s'.seg = s.seg := by rw [h.rest]
  have hdateRef := appStage_dateRef_congr hctrl hseg h.pb (by rw [h.rest])
  obtain ⟨hcode, hrd, -⟩ := appStage_congr hctrl hseg h.pb
  refine ⟨hcode, ?_⟩
  rw [appStage_writes s, appStage_writes s', hrd, hdateRef]
  exact (h.setRd _).setDateRef _

/-- The effects of a frame command keep the agreement and give the same code. -/
theorem AgreeBelowLen.after_effect {i : Instr} (hi : i = .hdrParse ∨ i = .segment ∨ i = .frameDecode) :
    (effect i s').1 = (effect i s).1 ∧ AgreeBelowLen (effect i s).2 (effect i s').2 := by
  rcases hi with rfl | rfl | rfl
  · exact h.after_hdrStage
  · exact h.after_segStage
  · obtain ⟨hdrCode, hdrAgree⟩ := h.after_hdrStage
    obtain ⟨segCode, segAgree⟩ := hdrAgree.after_segStage
    obtain ⟨appCode, appAgree⟩ := segAgree.after_appStage
    refine ⟨?_, appAgree⟩
    simp only [effect, hdrCode, segCode, appCode]

end

/-! ### The Engine's step and what is pending or has been answered -/

/-- `s` with other inputs pending and other answers given. -/
def State.withPort (s : State) (inputs : List Input) (answers : List Answer) : State :=
  { s with inputs := inputs, answers := answers }

section
variable (s : State) (inputs : List Input) (answers : List Answer)

theorem sameTelegram_withPort : SameTelegram s (s.withPort inputs answers) := ⟨rfl, rfl, rfl, rfl, rfl, fun _ _ _ => rfl⟩

theorem hdrStage_withPort :
    hdrStage (s.withPort inputs answers) = ((hdrStage s).1, (hdrStage s).2.withPort inputs answers) := by
  refine Prod.ext (by rw [hdrStage_code, hdrStage_code]; rfl) ?_
  rw [hdrStage_writes, hdrStage_writes s, (sameTelegram_withPort s inputs answers).hdrStage_hdr]
  rfl

theorem segStage_withPort :
    segStage (s.withPort inputs answers) = ((segStage s).1, (segStage s).2.withPort inputs answers) := by
  have same := sameTelegram_withPort s inputs answers
  by_cases hlen : s.len < 24
  · rw [segStage_short hlen, segStage_short (s := s.withPort inputs answers) hlen]
    rfl
  · have hle := Nat.le_of_not_lt hlen
    rw [segStage_full hle, segStage_full (s := s.withPort inputs answers) hle, same.segmentation hle, same.segRegs hle]
    rfl

theorem appStage_withPort :
    appStage (s.withPort inputs answers) = ((appStage s).1, (appStage s).2.withPort inputs answers) := by
  by_cases hlen : s.payLen < 13
  · rw [appStage_short hlen, appStage_short (s := s.withPort inputs answers) hlen]
    rfl
  · have hle := Nat.le_of_not_lt hlen
    rw [appStage_full hle, appStage_full (s := s.withPort inputs answers) hle]
    rfl

/-- No command reads or writes the pending inputs and the answers given. -/
theorem effect_withPort (i : Instr) :
    effect i (s.withPort inputs answers) = ((effect i s).1, (effect i s).2.withPort inputs answers) := by
  cases i with
  | crcBuf start len =>
    have hbytes : (s.withPort inputs answers).frameBytes start.toNat len.toNat = s.frameBytes start.toNat len.toNat :=
      readBytes_congr fun _ _ => rfl
    simp only [effect, hbytes]
    split <;> rfl
  | dateFull imm16 r => cases r <;> rfl
  | hdrParse => exact hdrStage_withPort s inputs answers
  | segment => exact segStage_withPort s inputs answers
  | appDecode => exact appStage_withPort s inputs answers
  | frameDecode => simp only [effect, hdrStage_withPort, segStage_withPort, appStage_withPort]
  | _ => rfl

/-- The Engine's step is the same whatever is pending and has been answered (70 R245). -/
theorem engineStep_withPort {s u : State} (h : engineStep s = .next u) :
    engineStep (s.withPort inputs answers) = .next (u.withPort inputs answers) := by
  have hlatch : (s.withPort inputs answers).latch = s.latch := rfl
  unfold engineStep at h ⊢
  rw [hlatch]
  cases hdecode : decode s.latch with
  | ok i =>
    simp only [hdecode] at h ⊢
    rw [exec_next h, exec_eq, effect_withPort]
    rfl
  | error e =>
    simp only [hdecode] at h ⊢
    cases h
    rfl

end

/-- The Engine's step takes no input and gives no answer (70 R245). -/
theorem engineStep_port {s u : State} (h : engineStep s = .next u) :
    u.busy = false ∧ u.inputs = s.inputs ∧ u.answers = s.answers := by
  rw [engineStep_frame h]
  exact ⟨rfl, rfl, rfl⟩

/-! ### Polling STATUS -/

theorem run_succ {s t : State} (h : step s = .next t) (k : Nat) : Claims.run (k + 1) s = Claims.run k t := by
  rw [Claims.run, h]

/-- `s` with a poll answered and `rest` still pending. -/
def State.polled (s : State) (rest : List Input) : State := s.withPort rest (s.answers ++ [s.readAnswer 0x004 .word])

/-- A performed poll has no other effect (20_memory R83). -/
theorem takeInput_poll {s : State} {rest : List Input} (hi : s.inputs = rd32 0x004 :: rest) :
    s.takeInput (rd32 0x004) = s.polled rest := by
  rw [State.polled, ← readAnswer_inputs s rest]
  simp only [State.takeInput, rd32, hi]
  rfl

/-- The step while busy with an input pending that may pass: the open order decides (70 R247, R255). -/
theorem step_busy_passing {s : State} {i : Input} {rest : List Input} (hb : s.busy = true) (hi : s.inputs = i :: rest)
    (hpass : i.passesBusy = true) :
    step s = if Config.engineFirst s then engineStep s else .next (s.takeInput i) := by
  cases hfirst : Config.engineFirst s <;> simp [step, State.nextMove, hb, hi, hpass, hfirst]

/-- Polls of an idle SMCORE are answered one after the other and change nothing. -/
theorem run_idle_polls {s : State} {n : Nat} {rest : List Input} (hb : s.busy = false) (hi : s.inputs = pollStatus n ++ rest) :
    ∃ as : List Answer, as.length = n ∧ Claims.run n s = .next (s.withPort rest (s.answers ++ as)) := by
  induction n generalizing s with
  | zero =>
    obtain rfl : s.inputs = rest := hi
    exact ⟨[], rfl, by rw [List.append_nil]; rfl⟩
  | succ n ih =>
    have hi' : s.inputs = rd32 0x004 :: (pollStatus n ++ rest) := hi
    have hstep := step_idle_input hb hi'
    rw [takeInput_poll hi'] at hstep
    obtain ⟨as, hlen, hrun⟩ := ih (s := s.polled (pollStatus n ++ rest)) hb rfl
    refine ⟨s.readAnswer 0x004 .word :: as, congrArg (· + 1) hlen, ?_⟩
    rw [run_succ hstep, hrun, List.append_cons s.answers _ as]
    rfl

/-- However the polls and the Engine's step are ordered, they leave what the Engine's step alone gives, with the polls
answered. -/
theorem run_busy_polls {s u : State} {n : Nat} {rest : List Input} (hb : s.busy = true)
    (hi : s.inputs = pollStatus n ++ rest) (hheld : ∀ j, rest.head? = some j → j.passesBusy = false)
    (hu : engineStep s = .next u) :
    ∃ as : List Answer, as.length = n ∧ Claims.run (n + 1) s = .next (u.withPort rest (s.answers ++ as)) := by
  induction n generalizing s u with
  | zero =>
    obtain rfl : s.inputs = rest := hi
    obtain ⟨-, hinputs, hanswers⟩ := engineStep_port hu
    refine ⟨[], rfl, ?_⟩
    rw [run_succ ((step_busy_held hb hheld).trans hu), List.append_nil, ← hinputs, ← hanswers]
    rfl
  | succ n ih =>
    have hi' : s.inputs = rd32 0x004 :: (pollStatus n ++ rest) := hi
    have hstep := step_busy_passing hb hi' rfl
    rw [takeInput_poll hi'] at hstep
    by_cases hfirst : Config.engineFirst s
    · obtain ⟨hbusy, hinputs, hanswers⟩ := engineStep_port hu
      rw [if_pos hfirst, hu] at hstep
      rw [run_succ hstep, ← hanswers]
      exact run_idle_polls hbusy (hinputs.trans hi)
    · rw [if_neg hfirst] at hstep
      obtain ⟨as, hlen, hrun⟩ :=
        ih (s := s.polled (pollStatus n ++ rest)) hb rfl (engineStep_withPort _ _ hu)
      refine ⟨s.readAnswer 0x004 .word :: as, congrArg (· + 1) hlen, ?_⟩
      rw [run_succ hstep, hrun, List.append_cons s.answers _ as]
      rfl

end Sys2Proof.Machine

namespace Sys2Proof.Proofs

open Sys2Proof Sys2Proof.Machine

/-- Settles O39: each stage keeps the agreement below FRAME_LEN, and so does the completion. -/
theorem frameCommandsReadOnlyBelowFrameLen : Obligations.FrameCommandsReadOnlyBelowFrameLen := by
  intro i s s' t t' hi hrest hfb hpb ht ht'
  have agree : AgreeBelowLen s s' := ⟨hrest, hfb, hpb⟩
  obtain ⟨hcode, heffect⟩ := agree.after_effect hi
  obtain rfl := exec_next ht
  obtain rfl := exec_next ht'
  rw [hcode]
  have hcomplete := heffect.complete (effect i s).1
  exact ⟨hcomplete.rest, hcomplete.pb⟩

/-- Settles O12: the Engine's step neither sees the polls nor is seen by them but in their answers. -/
theorem statusPollsDoNotChangeTheResult : Obligations.StatusPollsDoNotChangeTheResult := by
  intro s u n rest hb hi hheld hu
  obtain ⟨as, hlen, hrun⟩ := run_busy_polls hb hi hheld hu
  exact ⟨_, hrun, rfl, by rw [← hlen]; exact List.length_append⟩

end Sys2Proof.Proofs

namespace Sys2Proof.Machine

open Sys2Proof

/-! ### Rows of the opcode map and the words they match -/

/-- No two rows have one OP, and every mask covers the OP, so at most one row matches (30_encoding R109). -/
theorem row_eq_of_matches {w : Word} {r q : OpcodeRow} (hr : r ∈ opcodeMap) (hq : q ∈ opcodeMap)
    (hwr : w &&& r.mask = r.pattern) (hwq : w &&& q.mask = q.pattern) : r = q := by
  have hcover : ∀ p ∈ opcodeMap, p.mask &&& 0xFF#32 = 0xFF#32 := by decide
  have hops : (opcodeMap.map fun p => p.pattern &&& 0xFF#32).Nodup := by decide
  have hop : ∀ p ∈ opcodeMap, w &&& p.mask = p.pattern → p.pattern &&& 0xFF#32 = w &&& 0xFF#32 := fun p hp hw => by
    rw [← hw, BitVec.and_assoc, hcover p hp]
  exact List.inj_on_of_nodup_map hops hr hq ((hop r hr hwr).trans (hop q hq hwq).symm)

/-- The test decoding makes on a row is 30_encoding R109's. -/
theorem matchesWord_iff {r : OpcodeRow} {w : Word} : r.matchesWord w = true ↔ w &&& r.mask = r.pattern := beq_iff_eq

/-- The search for a row finds the one that matches. -/
theorem find?_row_eq_some_iff {w : Word} {r : OpcodeRow} :
    opcodeMap.find? (fun p => p.matchesWord w) = some r ↔ r ∈ opcodeMap ∧ w &&& r.mask = r.pattern := by
  have hfound : ∀ {q}, opcodeMap.find? (fun p => p.matchesWord w) = some q → q ∈ opcodeMap ∧ w &&& q.mask = q.pattern :=
    fun hq => ⟨List.mem_of_find?_eq_some hq, matchesWord_iff.1 (List.find?_some (p := (OpcodeRow.matchesWord · w)) hq)⟩
  refine ⟨hfound, fun ⟨hr, hw⟩ => ?_⟩
  have hsome : (opcodeMap.find? fun p => p.matchesWord w).isSome := List.find?_isSome.2 ⟨r, hr, matchesWord_iff.2 hw⟩
  obtain ⟨q, hq⟩ := Option.isSome_iff_exists.1 hsome
  rw [hq, row_eq_of_matches hr (hfound hq).1 hw (hfound hq).2]

theorem decode_of_matches {w : Word} {r : OpcodeRow} (hr : r ∈ opcodeMap) (hw : w &&& r.mask = r.pattern) :
    decode w = .ok (r.command w) := by
  rw [decode, find?_row_eq_some_iff.2 ⟨hr, hw⟩]

/-- Decoding gives a command exactly by the row that matches (30_encoding R109). -/
theorem decode_eq_ok_iff {w : Word} {i : Instr} :
    decode w = .ok i ↔ ∃ r ∈ opcodeMap, w &&& r.mask = r.pattern ∧ i = r.command w := by
  constructor
  · intro h
    unfold decode at h
    split at h
    case h_1 r hfind =>
      obtain ⟨hr, hw⟩ := find?_row_eq_some_iff.1 hfind
      exact ⟨r, hr, hw, (Except.ok.inj h).symm⟩
    case h_2 => cases h
  · rintro ⟨r, hr, hw, rfl⟩
    exact decode_of_matches hr hw

theorem decode_error_iff {w : Word} : (∃ e, decode w = .error e) ↔ ∀ r ∈ opcodeMap, w &&& r.mask ≠ r.pattern := by
  constructor
  · rintro ⟨e, he⟩ r hr hw
    rw [decode_of_matches hr hw] at he
    cases he
  · intro h
    cases hdecode : decode w with
    | ok i =>
      obtain ⟨r, hr, hw, -⟩ := decode_eq_ok_iff.1 hdecode
      exact absurd hw (h r hr)
    | error e => exact ⟨e, rfl⟩

/-! ### Masks as formats -/

/-- The mask of a format with operands in bits `k - 1 : 8` (30_encoding R102-R106): OP and the reserved bits from `k` on. -/
def formatMask (k : Nat) : Word := 0xFF#32 ||| BitVec.allOnes 32 <<< k

/-- The OP of each row of the map with the bit its format's reserved bits begin at, in the order of the formats N, B, RG, H
and HR (30_encoding R102-R106, R108). -/
def rowFormats : List (Nat × Nat) :=
  [(0x00, 8), (0x01, 8), (0x30, 8), (0x31, 8), (0x32, 8), (0x3F, 8),
    (0x02, 16), (0x03, 27), (0x10, 24), (0x21, 24), (0x20, 25)]

theorem opcodeMap_perm_rowFormats :
    (opcodeMap.map fun r => (r.pattern, r.mask)).Perm (rowFormats.map fun f => (BitVec.ofNat 32 f.1, formatMask f.2)) := by
  decide

theorem and_formatMask_toNat (w : Word) {k : Nat} (hk : 8 ≤ k) :
    (w &&& formatMask k).toNat = w.toNat % 2 ^ 8 + 2 ^ k * (w.toNat / 2 ^ k) := by
  have hlow : w.toNat % 2 ^ 8 < 2 ^ k := (Nat.mod_lt _ (by decide)).trans_le (Nat.pow_le_pow_right (by decide) hk)
  have hop : (w &&& 0xFF#32).toNat = w.toNat % 2 ^ 8 := Nat.and_two_pow_sub_one_eq_mod w.toNat 8
  have hhigh : (w &&& BitVec.allOnes 32 <<< k).toNat = w.toNat / 2 ^ k * 2 ^ k := by
    rw [← BitVec.shiftLeft_ushiftRight, BitVec.toNat_shiftLeft, BitVec.toNat_ushiftRight, Nat.shiftRight_eq_div_pow,
      Nat.shiftLeft_eq, Nat.mod_eq_of_lt ((Nat.div_mul_le_self _ _).trans_lt w.isLt)]
  rw [formatMask, BitVec.and_or_distrib_left, BitVec.toNat_or, hop, hhigh, or_shifted _ _ k hlow]

/-- What a format demands of a word, in numbers: its OP, and reserved bits 0. -/
theorem and_formatMask_eq_iff (w : Word) {op k : Nat} (hop : op < 2 ^ 8) (hk : 8 ≤ k) :
    w &&& formatMask k = BitVec.ofNat 32 op ↔ Claims.bitsOf w.toNat 0 8 = op ∧ w.toNat < 2 ^ k := by
  have hle : 2 ^ 8 ≤ 2 ^ k := Nat.pow_le_pow_right (by decide) hk
  rw [← BitVec.toNat_inj, and_formatMask_toNat w hk, BitVec.toNat_ofNat, Nat.mod_eq_of_lt (hop.trans (by decide)),
    Claims.bitsOf, Nat.pow_zero, Nat.div_one]
  constructor
  · intro h
    have hzero : w.toNat / 2 ^ k = 0 := by
      by_contra hne
      have := Nat.le_mul_of_pos_right (2 ^ k) (Nat.pos_of_ne_zero hne)
      omega
    rw [hzero] at h
    exact ⟨h, (Nat.div_eq_zero_iff_lt (Nat.two_pow_pos k)).1 hzero⟩
  · rintro ⟨hlow, hlt⟩
    rw [hlow, Nat.div_eq_of_lt hlt]
    rfl

/-- A word that matches a row is one whose OP is in the map and whose reserved bits are 0 (30_encoding R110). -/
theorem matches_iff_legalWord (w : Word) : (∃ r ∈ opcodeMap, w &&& r.mask = r.pattern) ↔ Claims.legalWord w := by
  have hformats : ∀ f ∈ rowFormats, f.1 < 2 ^ 8 ∧ 8 ≤ f.2 := by decide
  calc (∃ r ∈ opcodeMap, w &&& r.mask = r.pattern)
      ↔ ∃ p ∈ opcodeMap.map fun r => (r.pattern, r.mask), w &&& p.2 = p.1 := by
        simp only [List.mem_map, exists_exists_and_eq_and]
    _ ↔ ∃ f ∈ rowFormats, w &&& formatMask f.2 = BitVec.ofNat 32 f.1 := by
        simp only [opcodeMap_perm_rowFormats.mem_iff, List.mem_map, exists_exists_and_eq_and]
    _ ↔ ∃ f ∈ rowFormats, Claims.bitsOf w.toNat 0 8 = f.1 ∧ w.toNat < 2 ^ f.2 :=
        exists_congr fun f => and_congr_right fun hf => and_formatMask_eq_iff w (hformats f hf).1 (hformats f hf).2
    _ ↔ Claims.legalWord w := by
        simp only [rowFormats, Claims.legalWord, List.mem_cons, List.not_mem_nil, or_false, or_and_right, exists_or,
          exists_eq_left, or_assoc]

/-! ### Words and their commands -/

/-- An operand stands in a command word as a field does in a register's. -/
theorem operandAt_eq_place {n : Nat} (v : BitVec n) (k : Nat) : operandAt v k = place v k := rfl

/-- A row's command has the row's OP, and its operands come from where its encoding puts them: the encoding is the word
but for the bits of the row's mask, which are the row's pattern. -/
theorem encode_command (w : Word) : ∀ r ∈ opcodeMap, encode (r.command w) = r.pattern ||| w &&& ~~~r.mask := by
  have hflag : place (BitVec.ofBool (w.getLsbD 24)) 24 = w &&& place (BitVec.allOnes 1) 24 := placeBit_getLsbD w 24
  have hnone : ∀ p : Word, p = p ||| w &&& ~~~0xFFFFFFFF#32 := fun p => by simp
  simp only [opcodeMap, List.forall_mem_cons, encode, operandAt_eq_place, fieldImm8, fieldImm16, fieldStart, fieldLen,
    fieldR, place_extractLsb', hflag, BitVec.or_assoc, ← BitVec.and_or_distrib_left]
  exact ⟨hnone _, hnone _, rfl, rfl, rfl, rfl, rfl, hnone _, hnone _, hnone _, hnone _, fun _ h => nomatch h⟩

/-- A word is its row's pattern with its own operand bits. -/
theorem encode_command_of_matches {w : Word} {r : OpcodeRow} (hr : r ∈ opcodeMap) (hw : w &&& r.mask = r.pattern) :
    encode (r.command w) = w := by
  rw [encode_command w r hr, ← hw, ← BitVec.and_or_distrib_left, BitVec.or_not_self, BitVec.and_allOnes]

theorem operandsAreFields_command (w : Word) : ∀ r ∈ opcodeMap, Claims.operandsAreFields w (r.command w) := by
  have hfield : ∀ k n, (w.extractLsb' k n).toNat = Claims.bitsOf w.toNat k n := fun k n => (bitsOf_toNat w k n).symm
  simp only [opcodeMap, List.forall_mem_cons]
  exact ⟨trivial, trivial, hfield 8 8, ⟨hfield 8 9, hfield 17 10⟩, hfield 8 16, ⟨hfield 8 16, (bitsOf_one w 24).symm⟩,
    hfield 8 16, trivial, trivial, trivial, trivial, fun _ h => nomatch h⟩

/-! ### The numbers of encodings -/

/-- The line that writes a command, each operand as its number (30_encoding R112). -/
def lineOf : Instr → AsmLine
  | .nop => .nop
  | .crcInit => .crcInit
  | .crcByte imm8 => .crcByte imm8.toNat
  | .crcBuf start len => .crcBuf start.toNat len.toNat
  | .mfrDecode imm16 => .mfrDecode imm16.toNat
  | .dateFull imm16 r => .dateFull imm16.toNat r
  | .dateRel imm16 => .dateRel imm16.toNat
  | .hdrParse => .hdrParse
  | .segment => .segment
  | .appDecode => .appDecode
  | .frameDecode => .frameDecode

/-- The number of a command's word (30_encoding R114): its fields do not overlap, so they add up. -/
theorem encode_toNat (i : Instr) : (encode i).toNat = Claims.lineWord (lineOf i) := by
  cases i with
  | crcByte b | mfrDecode b | dateRel b =>
    simp only [encode, operandAt_eq_place, BitVec.toNat_or]
    rw [place_toNat _ _ (by decide), BitVec.toNat_ofNat, or_shifted _ _ 8 (by decide), Nat.mul_comm]
    rfl
  | crcBuf start len =>
    have := start.isLt
    simp only [encode, operandAt_eq_place, BitVec.toNat_or]
    rw [place_toNat _ _ (by decide), place_toNat _ _ (by decide), BitVec.toNat_ofNat, or_shifted _ _ 8 (by decide),
      or_shifted _ _ 17 (by omega), Nat.mul_comm, Nat.mul_comm (2 ^ 17)]
    rfl
  | dateFull f r =>
    have := f.isLt
    simp only [encode, operandAt_eq_place, BitVec.toNat_or]
    rw [place_toNat _ _ (by decide), place_toNat _ _ (by decide), BitVec.toNat_ofNat, or_shifted _ _ 8 (by decide),
      or_shifted _ _ 24 (by omega), Nat.mul_comm]
    cases r <;> rfl
  | _ => rfl

/-- A field is its operand when their numbers agree. -/
theorem extractLsb'_eq_of_bitsOf {w : Word} {k n : Nat} {v : BitVec n} (h : v.toNat = Claims.bitsOf w.toNat k n) :
    w.extractLsb' k n = v := BitVec.eq_of_toNat_eq ((bitsOf_toNat w k n).symm.trans h.symm)

/-- The fields of a command's word are its operands (30_encoding R107, R114). -/
theorem operandsAreFields_encode (i : Instr) : Claims.operandsAreFields (encode i) i := by
  cases i with
  | crcByte v | mfrDecode v | dateRel v =>
    have := v.isLt
    simp only [Claims.operandsAreFields, encode_toNat, lineOf, Claims.lineWord, Claims.bitsOf]
    omega
  | crcBuf start len =>
    have := start.isLt
    have := len.isLt
    simp only [Claims.operandsAreFields, encode_toNat, lineOf, Claims.lineWord, Claims.bitsOf]
    omega
  | dateFull f r =>
    have := f.isLt
    simp only [Claims.operandsAreFields, encode_toNat, lineOf, Claims.lineWord, Claims.bitsOf]
    cases r with
    | false | true => simp only [Bool.false_eq_true, if_true, if_false, Bool.toNat_false, Bool.toNat_true]; omega
  | _ => trivial

/-- A field has no bit in a mask that its place does not meet. -/
theorem place_and_mask_eq_zero {n k : Nat} {mask : Word} (v : BitVec n)
    (hmask : place (BitVec.allOnes n) k &&& mask = 0#32) : place v k &&& mask = 0#32 := by
  rw [← place_and_ones v k, BitVec.and_assoc, hmask, BitVec.and_zero]

/-- The row of a command (30_encoding R108). -/
def rowOf : Instr → OpcodeRow
  | .nop => opcodeMap[0]
  | .crcInit => opcodeMap[1]
  | .crcByte _ => opcodeMap[2]
  | .crcBuf _ _ => opcodeMap[3]
  | .mfrDecode _ => opcodeMap[4]
  | .dateFull _ _ => opcodeMap[5]
  | .dateRel _ => opcodeMap[6]
  | .hdrParse => opcodeMap[7]
  | .segment => opcodeMap[8]
  | .appDecode => opcodeMap[9]
  | .frameDecode => opcodeMap[10]

theorem rowOf_mem (i : Instr) : rowOf i ∈ opcodeMap := by
  cases i <;> exact List.getElem_mem _

/-- No operand reaches into the mask of its command's row, so the encoding matches the row (30_encoding R109). -/
theorem encode_matches_rowOf (i : Instr) : encode i &&& (rowOf i).mask = (rowOf i).pattern := by
  cases i with
  | crcByte | crcBuf | mfrDecode | dateFull | dateRel =>
    simp (disch := decide) only [encode, rowOf, operandAt_eq_place, BitVec.and_or_distrib_right, place_and_mask_eq_zero]
    rfl
  | _ => rfl

/-- A command's row takes its operands back from its encoding (30_encoding R107). -/
theorem rowOf_command_encode (i : Instr) : (rowOf i).command (encode i) = i := by
  have hfields := operandsAreFields_encode i
  cases i with
  | crcByte v => exact congrArg Instr.crcByte (extractLsb'_eq_of_bitsOf hfields)
  | crcBuf start len =>
    obtain ⟨hstart, hlen⟩ := hfields
    exact congrArg₂ Instr.crcBuf (extractLsb'_eq_of_bitsOf hstart) (extractLsb'_eq_of_bitsOf hlen)
  | mfrDecode v => exact congrArg Instr.mfrDecode (extractLsb'_eq_of_bitsOf hfields)
  | dateFull f r =>
    obtain ⟨hf, hr⟩ := hfields
    have hflag := Function.LeftInverse.injective Bool.ofNat_toNat ((bitsOf_one _ 24).symm.trans hr.symm)
    exact congrArg₂ Instr.dateFull (extractLsb'_eq_of_bitsOf hf) hflag
  | dateRel v => exact congrArg Instr.dateRel (extractLsb'_eq_of_bitsOf hfields)
  | _ => rfl

theorem decode_encode (i : Instr) : decode (encode i) = .ok i := by
  rw [decode_of_matches (rowOf_mem i) (encode_matches_rowOf i), rowOf_command_encode]

/-! ### Assembler lines -/

/-- A line is an error exactly when an operand is too large for its field (30_encoding R112). -/
theorem instr?_eq_none_iff (l : AsmLine) : l.instr? = none ↔ Claims.operandTooLarge l := by
  have hwf : l.wellFormed = false ↔ Claims.operandTooLarge l := by
    cases l with
    | crcBuf => simp [AsmLine.wellFormed, Claims.operandTooLarge, imp_iff_not_or]
    | _ => simp [AsmLine.wellFormed, Claims.operandTooLarge]
  rw [← hwf]
  unfold AsmLine.instr?
  cases l.wellFormed with
  | false => exact iff_of_true rfl rfl
  | true => cases l <;> exact iff_of_false nofun nofun

/-- A line stands for a command only when it is the line that writes it. -/
theorem eq_lineOf_of_instr? {l : AsmLine} {i : Instr} (h : l.instr? = some i) : l = lineOf i := by
  have hfit : ¬ Claims.operandTooLarge l := fun hlarge =>
    Option.some_ne_none i (h.symm.trans ((instr?_eq_none_iff l).2 hlarge))
  unfold AsmLine.instr? at h
  split at h
  case isFalse => cases h
  cases l with
  | crcByte v | mfrDecode v | dateRel v | dateFull v =>
    obtain rfl := Option.some.inj h
    simp only [Claims.operandTooLarge, lineOf, BitVec.toNat_ofNat] at hfit ⊢
    rw [Nat.mod_eq_of_lt (by omega)]
  | crcBuf start len =>
    obtain rfl := Option.some.inj h
    simp only [Claims.operandTooLarge, lineOf, BitVec.toNat_ofNat] at hfit ⊢
    rw [Nat.mod_eq_of_lt (by omega), Nat.mod_eq_of_lt (by omega)]
  | _ =>
    obtain rfl := Option.some.inj h
    rfl

end Sys2Proof.Machine

namespace Sys2Proof.Proofs

open Sys2Proof Sys2Proof.Machine

/-- Settles O1: a command's encoding matches its row, which takes the operands back. -/
theorem decodeReadsBackEveryEncoding : Obligations.DecodeReadsBackEveryEncoding := decode_encode

/-- Settles O2: a word that matches a row is the row's pattern with its own operand bits, as the encoding is. -/
theorem everyLegalWordIsItsCommandsEncoding : Obligations.EveryLegalWordIsItsCommandsEncoding := by
  intro w i h
  obtain ⟨r, hr, hw, rfl⟩ := decode_eq_ok_iff.1 h
  exact encode_command_of_matches hr hw

/-- Settles O3: the OPs of the rows differ and every mask covers the OP. -/
theorem decodingIsTheOneMatchingRow : Obligations.DecodingIsTheOneMatchingRow := fun _ =>
  ⟨fun _ hr _ hq hwr hwq => congrArg OpcodeRow.mnemonic (row_eq_of_matches hr hq hwr hwq), fun _ => decode_eq_ok_iff,
    decode_error_iff⟩

/-- Settles O4: the words no row matches are those that no format allows, and the Engine completes them with ILLEGAL. -/
theorem illegalWordsAreRefusedExactly : Obligations.IllegalWordsAreRefusedExactly := by
  intro w
  have hillegal : (∃ e, decode w = .error e) ↔ ¬ Claims.legalWord w := by
    rw [decode_error_iff, ← matches_iff_legalWord]
    simp only [not_exists, not_and, ne_eq]
  refine ⟨hillegal, fun s hlatch hw => ?_⟩
  obtain ⟨e, he⟩ := hillegal.2 hw
  rcases engineStep_cases s with ⟨i, hi, -⟩ | ⟨-, -, hstep⟩
  · rw [hlatch, he] at hi
    cases hi
  · exact hstep

/-- Settles O5: each row takes its operands from the fields of the word. -/
theorem operandsAreTheWordsFields : Obligations.OperandsAreTheWordsFields := by
  intro w i h
  obtain ⟨r, hr, -, rfl⟩ := decode_eq_ok_iff.1 h
  exact operandsAreFields_command w r hr

/-- Settles O7: a line with a command is the one that writes it, and the command's fields add up to the line's number. -/
theorem assemblerLinesEncode : Obligations.AssemblerLinesEncode := fun l =>
  ⟨instr?_eq_none_iff l, fun i h => by rw [encode_toNat, ← eq_lineOf_of_instr? h]⟩

/-- Settles O6: each word is decoded. -/
theorem writtenOutWordsDecode : Obligations.WrittenOutWordsDecode := by
  unfold Obligations.WrittenOutWordsDecode
  decide

end Sys2Proof.Proofs

namespace Sys2Proof.Machine

open Sys2Proof

/-! ### The CRC step as a bit-serial register -/

/-- One bit of a byte through the shift register: the bit that leaves and bit `k` of `b` that comes in decide whether the
polynomial is subtracted (40_checksum R120). -/
def serialBit (poly : Half) (b : Byte) (acc : Half) (k : Nat) : Half :=
  (acc <<< 1) ^^^ (if acc.getLsbD 15 != b.getLsbD k then poly else 0)

theorem serialStep_eq_foldl (poly acc : Half) (b : Byte) :
    Claims.serialStep poly acc b = (List.range 8).reverse.foldl (serialBit poly b) acc := rfl

/-- A shift of the register into which the bits of `b` from bit `k` down are still to come, held at its top: bit `k` is taken
in, and the bits below it move to the top. -/
theorem crcShift_pending (poly acc : Half) (b : Byte) {k : Nat} (hk : k < 16) :
    crcShift poly (acc ^^^ b.setWidth 16 <<< (15 - k)) = serialBit poly b acc k ^^^ b.setWidth 16 <<< (16 - k) := by
  have hmsb : (acc ^^^ b.setWidth 16 <<< (15 - k)).msb = (acc.getLsbD 15 != b.getLsbD k) := by
    have hbit : 15 - (15 - k) = k := by omega
    simp [BitVec.msb_eq_getLsbD_last, hbit]
  have hshift : (acc ^^^ b.setWidth 16 <<< (15 - k)) <<< 1 = acc <<< 1 ^^^ b.setWidth 16 <<< (16 - k) := by
    rw [BitVec.shiftLeft_xor_distrib, ← BitVec.shiftLeft_add, show 15 - k + 1 = 16 - k by omega]
  rw [crcShift, serialBit, hmsb, hshift]
  split
  · rw [BitVec.xor_assoc, BitVec.xor_assoc, BitVec.xor_comm poly]
  · simp

/-- With the low `k` bits of `b` still to come, `k` shifts take them in one by one, the most significant first. -/
theorem crcShifts_pending (poly acc : Half) (b : Byte) {k : Nat} (hk : k ≤ 16) :
    crcShifts poly k (acc ^^^ b.setWidth 16 <<< (16 - k)) = (List.range k).reverse.foldl (serialBit poly b) acc := by
  induction k generalizing acc with
  | zero => simp [crcShifts]
  | succ k ih =>
    rw [crcShifts, show 16 - (k + 1) = 15 - k by omega, crcShift_pending poly acc b hk, ih _ (Nat.le_of_succ_le hk),
      List.range_succ, List.reverse_concat, List.foldl_cons]

/-- The CRC step is the serial register's (40_checksum R120). -/
theorem crcStep_eq_serialStep (poly acc : Half) (b : Byte) : crcStep poly acc b = Claims.serialStep poly acc b := by
  rw [serialStep_eq_foldl, ← crcShifts_pending poly acc b (by decide : 8 ≤ 16), crcStep]

theorem crcFold_concat (poly acc : Half) (bs : List Byte) (b : Byte) :
    crcFold poly acc (bs ++ [b]) = crcStep poly (crcFold poly acc bs) b := List.foldl_concat ..

/-- The register before the final exclusive or (40_checksum R121). -/
theorem crc16_xor_xorout (s : State) (bs : List Byte) : s.crc16 bs ^^^ s.crcXorout = crcFold s.crcPoly s.crcInit bs := by
  rw [State.crc16, BitVec.xor_assoc, BitVec.xor_self, BitVec.xor_zero]

/-- The bytes of a range, one at a time (40_checksum R126). -/
theorem frameBytes_eq (s : State) (start n : Nat) : s.frameBytes start n = Claims.frameBytes s start n := by
  apply List.ext_getElem?
  intro k
  rw [State.frameBytes, readBytes_getElem?, Claims.frameBytes, List.getElem?_map, Nat.add_assoc]
  by_cases hk : k < n
  · rw [if_pos hk, List.getElem?_range hk]
    rfl
  · rw [if_neg hk, List.getElem?_eq_none (by simpa using hk)]
    rfl

/-! ### What the checksum commands leave -/

/-- A 16-bit field in bits 15:0 of a word is the word's number (10_state R23). -/
theorem place_half_toNat (v : Half) : (place v 0).toNat = v.toNat := by
  rw [place_toNat v 0 (by decide), Nat.pow_zero, Nat.mul_one]

/-- CRC_ACC reads ACC (10_state R27). -/
theorem readReg_crcAcc_toNat (s : State) : (s.readReg .crcAcc).toNat = s.crcAcc.toNat :=
  place_half_toNat _

/-- CRC_OUT reads ACC with XOROUT applied (10_state R32). -/
theorem readReg_crcOut_toNat (s : State) : (s.readReg .crcOut).toNat = (s.crcAcc ^^^ s.crcXorout).toNat :=
  place_half_toNat _

/-- CRC_BUF over a range inside FRAME_BUF leaves the register after the range's bytes (40_checksum R126). -/
theorem exec_crcBuf_fits {start : BitVec 9} {len : BitVec 10} (h : start.toNat + len.toNat ≤ 512) (s : State) :
    exec (.crcBuf start len) s =
      .next ((s.setAcc (crcFold s.crcPoly s.crcInit (Claims.frameBytes s start.toNat len.toNat))).complete .success) := by
  have hfits : rangeFits start len = true := decide_eq_true h
  rw [exec_eq, effect, if_pos hfits, frameBytes_eq]

/-- CRC_BYTE of each byte of a sequence runs the register over it and keeps XOROUT (40_checksum R125). -/
theorem execAll_crcByte (bs : List Byte) (s : State) :
    ∃ t, Claims.execAll (bs.map .crcByte) s = .next t ∧ t.crcAcc = crcFold s.crcPoly s.crcAcc bs ∧
      t.crcXorout = s.crcXorout := by
  induction bs generalizing s with
  | nil => exact ⟨s, rfl, rfl, rfl⟩
  | cons b bs ih => exact ih ((s.setAcc (crcStep s.crcPoly s.crcAcc b)).complete .success)

end Sys2Proof.Machine

namespace Sys2Proof.Proofs

open Sys2Proof Sys2Proof.Machine

/-- Settles O17: the register that takes in the whole byte first and then shifts is the serial one. -/
theorem crcByteFeedsOneByte : Obligations.CrcByteFeedsOneByte := by
  intro b s
  rw [← crcStep_eq_serialStep]
  exact ⟨_, exec_eq _ s, rfl, readReg_crcAcc_toNat _, readReg_crcOut_toNat _, fun _ => rfl⟩

/-- Settles O18: ACC is the fold over the range, and CRC_OUT is computed from it at the read. -/
theorem crcBufChecksumsTheRange : Obligations.CrcBufChecksumsTheRange := fun _ _ s h =>
  ⟨_, exec_crcBuf_fits h s, rfl, readReg_crcAcc_toNat _, readReg_crcOut_toNat _, fun _ => rfl⟩

/-- Settles O20: both forms run the register from INIT over the same bytes and keep XOROUT. -/
theorem streamingAndBufferFormsAgree : Obligations.StreamingAndBufferFormsAgree := by
  intro start len s h
  obtain ⟨t, hrun, hacc, hxorout⟩ :=
    execAll_crcByte (Claims.frameBytes s start.toNat len.toNat) ((s.setAcc s.crcInit).complete .success)
  refine ⟨t, _, hrun, exec_crcBuf_fits h s, hacc, ?_, ?_⟩
  · simp only [State.readReg, hacc, hxorout]
    rfl
  · rw [readReg_crcOut_toNat, hacc, hxorout]
    rfl

/-- Settles O21: the checksum's fold takes one more serial step for each further byte. -/
theorem checksumRunsFromAFreshAccumulator : Obligations.ChecksumRunsFromAFreshAccumulator := by
  refine fun s => ⟨rfl, fun bs b => ?_, fun t bs hpoly hinit hxorout => ?_⟩
  · rw [crc16_xor_xorout, ← crcStep_eq_serialStep, ← crcFold_concat, State.crc16]
  · simp only [State.crc16, hpoly, hinit, hxorout]

/-- Settles O16: the effect of CRC_INIT is the update of ACC with INIT. -/
theorem crcInitLoadsTheShiftRegister : Obligations.CrcInitLoadsTheShiftRegister := fun s =>
  ⟨_, exec_eq _ s, rfl, readReg_crcAcc_toNat _, fun _ => rfl⟩

end Sys2Proof.Proofs

namespace Sys2Proof.Machine

open Sys2Proof

/-! ### The characters of a manufacturer id -/

/-- A 5-bit group leaves its character a byte: 0x40 + 31 is below 0x100 (41_manufacturer R140). -/
theorem mfrChar_bitsAt_toNat (m : Half) (lo : Nat) : (mfrChar (bitsAt m lo 5)).toNat = Claims.character m.toNat lo := by
  have hgroup : m.toNat / 2 ^ lo % 2 ^ 5 < 2 ^ 5 := Nat.mod_lt _ (by decide)
  rw [mfrChar, BitVec.toNat_ofNat, bitsAt_eq, Nat.mod_eq_of_lt (by omega), Claims.character, Claims.bitsOf]

theorem mfrUnpack_c0_toNat (m : Half) : (mfrUnpack m).c0.toNat = Claims.character m.toNat 10 := mfrChar_bitsAt_toNat m 10

theorem mfrUnpack_c1_toNat (m : Half) : (mfrUnpack m).c1.toNat = Claims.character m.toNat 5 := mfrChar_bitsAt_toNat m 5

theorem mfrUnpack_c2_toNat (m : Half) : (mfrUnpack m).c2.toNat = Claims.character m.toNat 0 := mfrChar_bitsAt_toNat m 0

/-- The word MFR_OUT and HDR_MFRC read for an id (10_state R33, R40). -/
theorem mfrUnpack_word_toNat (m : Half) :
    (mfrUnpack m).word.toNat =
      Claims.character m.toNat 10 + 2 ^ 8 * Claims.character m.toNat 5 + 2 ^ 16 * Claims.character m.toNat 0 := by
  rw [MfrChars.word_toNat, mfrUnpack_c0_toNat, mfrUnpack_c1_toNat, mfrUnpack_c2_toNat]

/-- The number three characters pack as, the first one's group at the top (41_manufacturer R142). -/
def MfrChars.packed (u : MfrChars) : Nat :=
  (u.c0.toNat - 0x40) * 2 ^ 10 + (u.c1.toNat - 0x40) * 2 ^ 5 + (u.c2.toNat - 0x40)

/-- The three groups are adjacent, so they make up bits 14:0. -/
theorem packed_mfrUnpack (m : Half) : (mfrUnpack m).packed = Claims.bitsOf m.toNat 0 15 := by
  simp only [MfrChars.packed, mfrUnpack_c0_toNat, mfrUnpack_c1_toNat, mfrUnpack_c2_toNat, Claims.character, Claims.bitsOf]
  omega

/-- A group inside bits 14:0 is a field of their number. -/
theorem character_bitsOf_low (m : Nat) {lo : Nat} (h : lo + 5 ≤ 15) :
    Claims.character (Claims.bitsOf m 0 15) lo = Claims.character m lo := by
  have hsplit : 2 ^ 15 = 2 ^ lo * 2 ^ (15 - lo) := by rw [← Nat.pow_add, Nat.add_sub_cancel' (by omega)]
  have hgroup : 2 ^ 5 ∣ 2 ^ (15 - lo) := Nat.pow_dvd_pow 2 (by omega)
  simp only [Claims.character, Claims.bitsOf, Nat.pow_zero, Nat.div_one]
  rw [hsplit, Nat.mod_mul_right_div_self, Nat.mod_mod_of_dvd _ hgroup]

/-- Bit 15 is not read, and no other bit is lost (41_manufacturer R140, R142). -/
theorem mfrUnpack_eq_iff (m n : Half) :
    mfrUnpack m = mfrUnpack n ↔ Claims.bitsOf m.toNat 0 15 = Claims.bitsOf n.toNat 0 15 := by
  refine ⟨fun h => by rw [← packed_mfrUnpack, h, packed_mfrUnpack], fun h => ?_⟩
  have hchar : ∀ lo, lo + 5 ≤ 15 → mfrChar (bitsAt m lo 5) = mfrChar (bitsAt n lo 5) := fun lo hlo =>
    BitVec.eq_of_toNat_eq <| by
      rw [mfrChar_bitsAt_toNat, mfrChar_bitsAt_toNat, ← character_bitsOf_low _ hlo, h, character_bitsOf_low _ hlo]
  rw [mfrUnpack, mfrUnpack, hchar 10 (by decide), hchar 5 (by decide), hchar 0 (by decide)]

/-- Three 5-bit groups do not overlap in the id they pack as, so each character is its own group's (41_manufacturer R142). -/
theorem mfrUnpack_packing {x y z : Nat} (hx : x < 32) (hy : y < 32) (hz : z < 32) :
    let u := mfrUnpack (BitVec.ofNat 16 (x * 2 ^ 10 + y * 2 ^ 5 + z))
    u.c0.toNat = 0x40 + x ∧ u.c1.toNat = 0x40 + y ∧ u.c2.toNat = 0x40 + z := by
  simp only [mfrUnpack_c0_toNat, mfrUnpack_c1_toNat, mfrUnpack_c2_toNat, BitVec.toNat_ofNat, Claims.character, Claims.bitsOf]
  omega

end Sys2Proof.Machine

namespace Sys2Proof.Proofs

open Sys2Proof Sys2Proof.Machine

/-- Settles O22: the command's effect is the update of MFR_OUT with the unpacked characters. -/
theorem mfrDecodeUnpacksThreeCharacters : Obligations.MfrDecodeUnpacksThreeCharacters := fun m s =>
  ⟨_, exec_eq _ s, rfl, mfrUnpack_c0_toNat m, mfrUnpack_c1_toNat m, mfrUnpack_c2_toNat m, mfrUnpack_word_toNat m,
    fun _ => rfl⟩

/-- Settles O23: the groups read are adjacent and make up bits 14:0. -/
theorem manufacturerUnpackingIsInvertible : Obligations.ManufacturerUnpackingIsInvertible := fun m =>
  ⟨packed_mfrUnpack m, mfrUnpack_eq_iff m, fun _ _ _ => mfrUnpack_packing⟩

end Sys2Proof.Proofs

namespace Sys2Proof.Machine

open Sys2Proof

/-! ### The calendar -/

theorem leapYear_iff (y : Nat) : leapYear y = true ↔ (4 ∣ y ∧ ¬ 100 ∣ y) ∨ 400 ∣ y := by
  simp [leapYear, Nat.dvd_iff_mod_eq_zero]

/-- February has its 29th day in a leap year only (42_date R151). -/
theorem daysInMonth_february (y : Nat) :
    daysInMonth y 2 = if (4 ∣ y ∧ ¬ 100 ∣ y) ∨ 400 ∣ y then 29 else 28 := by
  simp only [daysInMonth, leapYear_iff]

/-- The list of the months' days holds the days of each month (42_date R151). -/
theorem monthDays_getElem? (y : Nat) {m : Nat} (h1 : 1 ≤ m) (h12 : m ≤ 12) :
    (Claims.monthDays y)[m - 1]? = some (daysInMonth y m) := by
  interval_cases m
  · rfl
  · exact congrArg some (daysInMonth_february y).symm
  all_goals rfl

/-- The list has no thirteenth month. -/
theorem monthDays_getElem?_eq_some_le {y m n : Nat} (h : (Claims.monthDays y)[m - 1]? = some n) : m ≤ 12 := by
  have hlt : m - 1 < 12 := (List.getElem?_eq_some_iff.1 h).1
  omega

/-- The V bit's rule is the calendar (42_date R151). -/
theorem validDate_iff_isDate (y m d : Nat) : validDate y m d = true ↔ Claims.isDate y m d := by
  simp only [validDate, Bool.and_eq_true, decide_eq_true_eq]
  constructor
  · rintro ⟨⟨⟨hm, hm'⟩, hd⟩, hd'⟩
    exact ⟨_, hm, monthDays_getElem? y hm hm', hd, hd'⟩
  · rintro ⟨n, hm, hn, hd, hd'⟩
    have hm' := monthDays_getElem?_eq_some_le hn
    obtain rfl : daysInMonth y m = n := Option.some.inj ((monthDays_getElem? y hm hm').symm.trans hn)
    exact ⟨⟨⟨hm, hm'⟩, hd⟩, hd'⟩

/-- Only a leap year has a 29 February. -/
theorem leap_of_isDate_feb29 {y : Nat} (h : Claims.isDate y 2 29) : (4 ∣ y ∧ ¬ 100 ∣ y) ∨ 400 ∣ y := by
  obtain ⟨n, -, hn, -, h29⟩ := h
  rw [monthDays_getElem? y (by decide) (by decide), daysInMonth_february] at hn
  by_contra hleap
  rw [if_neg hleap] at hn
  exact absurd (Option.some.inj hn ▸ h29) (by decide)

theorem earlierInYear_iff_before (m d c e : Nat) : earlierInYear m d c e = true ↔ Claims.before m d c e := by
  simp [earlierInYear, Claims.before]

/-! ### The fields of a full and of a relative date -/

theorem bitsAt_eq_bitsOf (f : Half) (lo n : Nat) : bitsAt f lo n = Claims.bitsOf f.toNat lo n := bitsAt_eq f lo n

/-- A date register's field is wide enough for a clamped month or day (42_date R150, R152, 10_state R34). -/
theorem clampedBits_lt (f : Half) (lo : Nat) {n w : Nat} (hn : 0 < n) (hw : n ≤ w) : max 1 (bitsAt f lo n) < 2 ^ w :=
  Nat.max_lt.2 ⟨Nat.one_lt_two_pow (by omega), (BitVec.isLt _).trans_le (Nat.pow_le_pow_right (by decide) hw)⟩

theorem ofNat_clampedBits_toNat (f : Half) (lo : Nat) {n w : Nat} (hn : 0 < n) (hw : n ≤ w) :
    (BitVec.ofNat w (max 1 (bitsAt f lo n))).toNat = max 1 (Claims.bitsOf f.toNat lo n) := by
  rw [BitVec.toNat_ofNat, Nat.mod_eq_of_lt (clampedBits_lt f lo hn hw), bitsAt_eq_bitsOf]

theorem fullDate_year_toNat (f : Half) : (fullDate f).year.toNat = 2000 + Claims.bitsOf f.toNat 9 6 := by
  have hbits : bitsAt f 9 6 < 2 ^ 6 := BitVec.isLt _
  rw [fullDate, dateRecord, BitVec.toNat_ofNat, Nat.mod_eq_of_lt (by omega), bitsAt_eq_bitsOf]

theorem fullDate_month_toNat (f : Half) : (fullDate f).month.toNat = max 1 (Claims.bitsOf f.toNat 5 4) :=
  ofNat_clampedBits_toNat f 5 (by decide) (by decide)

theorem fullDate_day_toNat (f : Half) : (fullDate f).day.toNat = max 1 (Claims.bitsOf f.toNat 0 5) :=
  ofNat_clampedBits_toNat f 0 (by decide) (by decide)

/-- V of a full date says whether the record's own fields name a date (42_date R150, R151). -/
theorem fullDate_v_iff (f : Half) :
    (fullDate f).v = true ↔ Claims.isDate (fullDate f).year.toNat (fullDate f).month.toNat (fullDate f).day.toNat := by
  rw [← validDate_iff_isDate, fullDate_year_toNat, fullDate_month_toNat, fullDate_day_toNat, ← bitsAt_eq_bitsOf,
    ← bitsAt_eq_bitsOf, ← bitsAt_eq_bitsOf]
  rfl

section
variable (f : Half) (ref : DateRecord) (rollfix : Bool)

theorem relDate_month_toNat : (relDate f ref rollfix).month.toNat = max 1 (Claims.bitsOf f.toNat 9 4) :=
  ofNat_clampedBits_toNat f 9 (by decide) (by decide)

theorem relDate_day_toNat : (relDate f ref rollfix).day.toNat = max 1 (Claims.bitsOf f.toNat 4 5) :=
  ofNat_clampedBits_toNat f 4 (by decide) (by decide)

/-- The year of a relative date, the days of the year compared as the records hold them (42_date R152, R153). -/
theorem relDate_year_toNat :
    (relDate f ref rollfix).year.toNat =
      if earlierInYear (relDate f ref rollfix).month.toNat (relDate f ref rollfix).day.toNat ref.month.toNat ref.day.toNat &&
        rollfix then (ref.year.toNat + 1) % 65536 else ref.year.toNat := by
  rw [relDate_month_toNat, relDate_day_toNat, ← bitsAt_eq_bitsOf, ← bitsAt_eq_bitsOf, relDate, dateRecord,
    BitVec.toNat_ofNat]
  refine Nat.mod_eq_of_lt ?_
  split
  · exact Nat.mod_lt _ (by decide)
  · exact ref.year.isLt

/-- V of a relative date: the reference is valid and the record's own fields name a date (42_date R152). -/
theorem relDate_v_iff :
    (relDate f ref rollfix).v = true ↔ ref.v = true ∧
      Claims.isDate (relDate f ref rollfix).year.toNat (relDate f ref rollfix).month.toNat
        (relDate f ref rollfix).day.toNat := by
  rw [← validDate_iff_isDate, ← Bool.and_eq_true, relDate_year_toNat, relDate_month_toNat, relDate_day_toNat,
    ← bitsAt_eq_bitsOf, ← bitsAt_eq_bitsOf]
  rfl

/-- The reference's V reaches no field but V (42_date R153). -/
theorem relDate_of_invalid_reference (h : ref.v = false) :
    relDate f ref rollfix = { relDate f { ref with v := true } rollfix with v := false } := by
  simp only [relDate, dateRecord, h, Bool.false_and]

end

/-- The candidate's day of the year comes before the reference's (42_date R152). -/
def RelDateBefore (f : Half) (ref : DateRecord) (rollfix : Bool) : Prop :=
  Claims.before (relDate f ref rollfix).month.toNat (relDate f ref rollfix).day.toNat ref.month.toNat ref.day.toNat

section
variable {f : Half} {ref : DateRecord} {rollfix : Bool}

theorem relDate_year_of_rolls (h : RelDateBefore f ref rollfix ∧ rollfix = true) :
    (relDate f ref rollfix).year.toNat = (ref.year.toNat + 1) % 65536 := by
  rw [RelDateBefore, ← earlierInYear_iff_before, ← Bool.and_eq_true] at h
  rw [relDate_year_toNat, if_pos h]

theorem relDate_year_of_stays (h : ¬ (RelDateBefore f ref rollfix ∧ rollfix = true)) :
    (relDate f ref rollfix).year = ref.year := by
  rw [RelDateBefore, ← earlierInYear_iff_before, ← Bool.and_eq_true] at h
  exact BitVec.eq_of_toNat_eq (by rw [relDate_year_toNat, if_neg h])

/-- A day of the year is not before itself. -/
theorem not_relDateBefore_of_eq (hm : (relDate f ref rollfix).month = ref.month)
    (hd : (relDate f ref rollfix).day = ref.day) : ¬ RelDateBefore f ref rollfix := by
  rw [RelDateBefore, Claims.before, hm, hd]
  omega

end

/-- Below the last year a rolled date's year is the one after the reference's. -/
theorem relDate_year_succ {f : Half} {ref : DateRecord} (hbefore : RelDateBefore f ref true) (hyear : ref.year.toNat < 65535) :
    (relDate f ref true).year.toNat = ref.year.toNat + 1 := by
  rw [relDate_year_of_rolls ⟨hbefore, rfl⟩, Nat.mod_eq_of_lt (by omega)]

/-! ### What the date commands leave -/

theorem exec_dateFull (f : Half) (r : Bool) (s : State) :
    exec (.dateFull f r) s =
      .next (Claims.done { s with dateOut := fullDate f, dateRef := if r then fullDate f else s.dateRef } .success) := by
  cases r with
  | false => rfl
  | true => rfl

theorem exec_dateRel (f : Half) (s : State) :
    exec (.dateRel f) s = .next (Claims.done { s with dateOut := relDate f s.dateRef s.ctrl.rollfix } .success) := rfl

end Sys2Proof.Machine

namespace Sys2Proof.Proofs

open Sys2Proof Sys2Proof.Machine

/-- Settles O24: the command's record is the full date of the field. -/
theorem dateFullDecodesTheField : Obligations.DateFullDecodesTheField := by
  intro f r s
  refine ⟨_, exec_dateFull f r s, rfl, fullDate_year_toNat f, fullDate_month_toNat f, fullDate_day_toNat f, fullDate_v_iff f,
    DateRecord.word_toNat (fullDate f), ?_, fun _ => rfl⟩
  rintro rfl
  rfl

/-- Settles O25: within the months the list of days and the rule's table agree, and there is no other month. -/
theorem dateValidityIsTheCalendar : Obligations.DateValidityIsTheCalendar := validDate_iff_isDate

/-- Settles O26: the command's record is the relative date of the field against DATE_REF. -/
theorem dateRelResolvesAgainstTheReference : Obligations.DateRelResolvesAgainstTheReference := fun f s =>
  ⟨_, exec_dateRel f s, rfl, relDate_month_toNat .., relDate_day_toNat .., relDate_year_of_rolls, relDate_year_of_stays,
    relDate_v_iff .., DateRecord.word_toNat _, fun _ => rfl⟩

/-- Settles O27: a candidate before the reference takes the next year, the least that is left; another one the reference's. -/
theorem rollfixGivesTheNextOccurrence : Obligations.RollfixGivesTheNextOccurrence := by
  refine fun f ref => ⟨relDate_year_of_stays nofun, fun hyear => ?_⟩
  by_cases hbefore : RelDateBefore f ref true
  · have hnext := relDate_year_succ hbefore hyear
    constructor
    · rintro (hless | ⟨hsame, -⟩)
      · omega
      · rw [hsame] at hnext
        omega
    · rintro y (hlater | ⟨-, hnot⟩)
      · omega
      · exact absurd hbefore hnot
  · have hsame : (relDate f ref true).year = ref.year := relDate_year_of_stays fun h => hbefore h.1
    constructor
    · rintro (hless | ⟨-, h⟩)
      · exact Nat.lt_irrefl _ (hsame ▸ hless)
      · exact hbefore h
    · rintro y (hlater | ⟨heq, -⟩)
      · exact hsame ▸ hlater.le
      · exact hsame ▸ heq.le

/-- Settles O28: the year's rule and the V bit's rule read at the corner cases. -/
theorem relativeDateCorners : Obligations.RelativeDateCorners := by
  intro f ref rollfix
  refine ⟨relDate_month_toNat .., relDate_day_toNat .., fun hbefore hfix => relDate_year_of_rolls ⟨hbefore, hfix⟩,
    fun hnot => relDate_year_of_stays fun h => hnot h.1,
    fun hm hd => relDate_year_of_stays fun h => not_relDateBefore_of_eq hm hd h.1, ?feb29, ?wraps, ?invalid⟩
  case feb29 =>
    intro hm hd hv
    have hdate := ((relDate_v_iff f ref rollfix).1 hv).2
    rw [hm, hd] at hdate
    exact leap_of_isDate_feb29 hdate
  case wraps =>
    intro hyear hfix hbefore
    have hrolled := relDate_year_of_rolls ⟨hbefore, hfix⟩
    rw [hyear] at hrolled
    exact BitVec.eq_of_toNat_eq hrolled
  case invalid =>
    intro hv
    have hrecord := relDate_of_invalid_reference f ref rollfix hv
    exact ⟨by rw [hrecord], hrecord⟩

end Sys2Proof.Proofs

namespace Sys2Proof.Machine

open Sys2Proof

/-! ### The header registers in numbers -/

/-- The number of a stored checksum (40_checksum R122). -/
theorem stored16_toNat (crcord : Bool) (p q : Byte) :
    (stored16 crcord p q).toNat = Claims.storedNumber crcord p q := by
  cases crcord with
  | false => exact le16_toNat p q
  | true =>
    change (be16 p q).toNat = 256 * p.toNat + q.toNat
    rw [be16_eq_le16, le16_toNat]
    omega

theorem leWord_four_toNat (b0 b1 b2 b3 : Byte) :
    (leWord [b0, b1, b2, b3]).toNat = b0.toNat + 2 ^ 8 * b1.toNat + 2 ^ 16 * b2.toNat + 2 ^ 24 * b3.toNat := by
  have h1 : (leWord [b1, b2, b3]).toNat < 2 ^ 24 := leWord_lt [b1, b2, b3] (Nat.le_succ 3)
  have h2 : (leWord [b2, b3]).toNat < 2 ^ 16 := leWord_lt [b2, b3] (Nat.le_add_right 2 2)
  have h3 : (leWord [b3]).toNat < 2 ^ 8 := leWord_lt [b3] (Nat.le_add_right 1 3)
  have h4 : (leWord []).toNat = 0 := rfl
  rw [leWord_cons_toNat _ _ h1, leWord_cons_toNat _ _ (by omega), leWord_cons_toNat _ _ (by omega),
    leWord_cons_toNat _ _ (by omega), h4]
  omega

/-- The number of HDR_LCVT's word (10_state R38). -/
theorem readReg_hdrLcvt_toNat (s : State) :
    (s.readReg .hdrLcvt).toNat =
      s.hdr.l.toNat + 2 ^ 8 * s.hdr.c.toNat + 2 ^ 16 * s.hdr.ver.toNat + 2 ^ 24 * s.hdr.devType.toNat := by
  have h1 := s.hdr.l.isLt
  have h2 := s.hdr.c.isLt
  have h3 := s.hdr.ver.isLt
  simp only [State.readReg, BitVec.toNat_or]
  rw [place_toNat _ _ (by decide), place_toNat _ _ (by decide), place_toNat _ _ (by decide), place_toNat _ _ (by decide),
    or_shifted _ _ 8 (by omega), or_shifted _ _ 16 (by omega), or_shifted _ _ 24 (by omega)]
  omega

/-- The number of HDR_STAT's word (10_state R37). -/
theorem readReg_hdrStat_toNat (s : State) :
    (s.readReg .hdrStat).toNat = s.hdr.valid.toNat + 2 * s.hdr.crcOk.toNat := by
  have h1 := s.hdr.valid.toNat_lt
  simp only [State.readReg, BitVec.toNat_or]
  rw [placeBit_toNat _ _ (by decide), placeBit_toNat _ _ (by decide), or_shifted _ _ 1 (by omega)]
  omega

/-- The checksums of a pair are equal exactly where their numbers are. -/
theorem CrcPair.ok_iff_toNat (c : CrcPair) : c.ok = true ↔ c.calculated.toNat = c.stored.toNat := by
  rw [CrcPair.ok_iff, BitVec.toNat_inj]

/-- HDR_PARSE of a telegram of at least 24 bytes (43_frame R180). -/
theorem exec_hdrParse_full {s : State} (h : 24 ≤ s.len) :
    exec .hdrParse s = .next ((s.setHdr s.parsedHdr).complete .success) := by
  rw [exec_eq, effect, hdrStage_full h]

/-- HDR_CRC after the header stage: the checksum over bytes 0-9 beside the one stored in bytes 10 and 11 (43_frame R171). -/
theorem parsedHdr_crc (s : State) :
    s.parsedHdr.crc.calculated = s.crc16 (Claims.frameBytes s 0 10) ∧
    s.parsedHdr.crc.stored.toNat = Claims.storedNumber s.ctrl.crcord (s.fb 10) (s.fb 11) :=
  ⟨congrArg s.crc16 (frameBytes_eq s 0 10), stored16_toNat ..⟩

end Sys2Proof.Machine

namespace Sys2Proof.Proofs

open Sys2Proof Sys2Proof.Machine

/-- Settles O29: each register's word is put together from the fields the header stage fills. -/
theorem hdrParseFillsTheHeaderRegisters : Obligations.HdrParseFillsTheHeaderRegisters := by
  intro s hlen b m calculated stored
  obtain ⟨hcalculated, hstored⟩ := parsedHdr_crc s
  have hm : (le16 (s.fb 2) (s.fb 3)).toNat = m := le16_toNat ..
  refine ⟨_, exec_hdrParse_full hlen, rfl, readReg_hdrLcvt_toNat _, (place_half_toNat _).trans hm, ?mfrc,
    leWord_four_toNat .., ?crc, ?stat, fun _ => rfl⟩
  case mfrc => exact hm ▸ mfrUnpack_word_toNat _
  case crc =>
    refine (halvesWord_toNat _ _).trans ?_
    change s.parsedHdr.crc.stored.toNat + 2 ^ 16 * s.parsedHdr.crc.calculated.toNat = _
    rw [hcalculated, hstored]
  case stat =>
    have hok := s.parsedHdr.crc.ok_iff_toNat
    rw [hcalculated, hstored] at hok
    refine (readReg_hdrStat_toNat _).trans ?_
    change 1 + 2 * s.parsedHdr.crc.ok.toNat = if calculated = stored then 3 else 1
    by_cases heq : calculated = stored
    · rw [if_pos heq, hok.2 heq]; rfl
    · rw [if_neg heq, Bool.eq_false_iff.2 (mt hok.1 heq)]; rfl

end Sys2Proof.Proofs

namespace Sys2Proof.Machine

open Sys2Proof

/-! ### What SEGMENT finds, in numbers -/

/-- N is the declared size of the telegram in FRAME_BUF (43_frame R172). -/
theorem declaredSize_eq_declared (s : State) : declaredSize (s.fb 0).toNat = Claims.declared s := by
  unfold declaredSize Claims.declared
  split <;> omega

theorem declared_le (s : State) : Claims.declared s ≤ 246 := declaredSize_eq_declared s ▸ declaredSize_le _

/-- The number of blocks the segmentation finds: NBLK (10_state R43, 43_frame R175). -/
def State.found (s : State) : Nat := s.segmentation.blocks.length

theorem found_le (s : State) : s.found ≤ 16 := segmentation_blocks_length_le s

/-- END is one past the last complete block: after its data and the data and checksums of those before it (10_state R46). -/
theorem segmentation_endOff (s : State) :
    s.segmentation.endOff = 12 + min (Claims.declared s) (16 * s.found) + 2 * s.found :=
  declaredSize_eq_declared s ▸ (segLoop_spec s 16 12 _).2.2.1

/-- Where the loop stops at a block that does not fit, that block is declared (43_frame R174). -/
theorem segmentation_truncated {s : State} (h : s.segmentation.trunc = true) :
    16 * s.found < Claims.declared s ∧
      s.len < 12 + 18 * s.found + Claims.blockSize (Claims.declared s) s.found + 2 :=
  declaredSize_eq_declared s ▸ (segLoop_spec s 16 12 _).2.2.2.1 h

/-- Where it does not, no declared byte is left: 16 blocks hold the most that can be declared (00_scope R8). -/
theorem segmentation_complete {s : State} (h : s.segmentation.trunc = false) : Claims.declared s ≤ 16 * s.found := by
  have hend : declaredSize (s.fb 0).toNat ≤ 16 * s.found ∨ s.found = 16 := (segLoop_spec s 16 12 _).2.2.2.2.1 h
  rw [declaredSize_eq_declared] at hend
  have := declared_le s
  omega

/-- The last block found holds a declared byte. -/
theorem declared_of_found {s : State} (h : s.found ≠ 0) : 16 * (s.found - 1) < Claims.declared s :=
  declaredSize_eq_declared s ▸ (segLoop_spec s 16 12 _).2.2.2.2.2 h

theorem segmentation_payload_length (s : State) :
    s.segmentation.payload.length = min (Claims.declared s) (16 * s.found) - 1 := by
  rw [Segmentation.payload, List.length_drop, segmentation_dataBytes_length, declaredSize_eq_declared, State.found]

/-- Data byte j of the telegram (43_frame R175). -/
theorem segmentation_dataBytes (s : State) (j : Nat) :
    s.segmentation.dataBytes[j]? =
      if j < min (Claims.declared s) (16 * s.found) then some (s.fb (12 + j + 2 * (j / 16))) else none :=
  declaredSize_eq_declared s ▸ segLoop_dataBytes s 16 12 _ j

/-! ### What SEGMENT leaves -/

/-- The state SEGMENT leaves of a telegram of at least 24 bytes (43_frame R181). -/
def State.segmented (s : State) : State :=
  ((s.setSeg (s.segRegs s.segmentation)).setMem (s.mem.withPayload s.segmentation.payload)).complete .success

theorem exec_segment_full {s : State} (h : 24 ≤ s.len) : exec .segment s = .next s.segmented := by
  rw [exec_eq, effect, segStage_full h, State.segmented]

theorem eq_segmented {s t : State} (hlen : 24 ≤ s.frameLen.toNat) (ht : exec .segment s = .next t) : t = s.segmented :=
  Host.Outcome.next.inj (ht.symm.trans (exec_segment_full hlen))

theorem segmented_seg (s : State) : s.segmented.seg = s.segRegs s.segmentation := rfl

theorem segmented_readByte (s : State) (a : Nat) :
    s.segmented.readByte a =
      if inPayloadBuf a then (s.segmentation.payload[a - 0x600]?).getD 0 else s.readByte a := by
  have := segmentation_payload_length_le s
  rw [State.segmented, readByte_complete]
  exact readByte_withPayload (s.setSeg _) _ (by omega) a

theorem segmented_nblk (s : State) : s.segmented.seg.nblk.toNat = s.found := segRegs_nblk s _ (found_le s)

theorem segmented_payLen (s : State) :
    s.segmented.seg.payLen.toNat = min (Claims.declared s) (16 * s.found) - 1 :=
  (segRegs_payLen s _ (segmentation_payload_length_le s)).trans (segmentation_payload_length s)

/-- CI_P says that a block was found (10_state R45). -/
theorem segmented_ciP_iff (s : State) : s.segmented.seg.ciP = true ↔ 0 < s.found := by
  rw [State.found, List.length_pos_iff]
  simp [State.segmented, State.segRegs]

theorem segmented_endOff (s : State) :
    s.segmented.seg.endOff.toNat = 12 + min (Claims.declared s) (16 * s.found) + 2 * s.found := by
  have hfound := found_le s
  have hdeclared := declared_le s
  change (BitVec.ofNat 10 s.segmentation.endOff).toNat = _
  rw [BitVec.toNat_ofNat, segmentation_endOff]
  omega

/-- The entry of a block found is that of the block at its place, which lies below LEN with its checksum (43_frame R173). -/
theorem segmented_entry_found {s : State} {i : Fin 16} (hi : i.val < s.found) :
    let pos := 12 + 18 * i.val
    let bs := Claims.blockSize (Claims.declared s) i.val
    s.segmented.seg.blkInfo[i] = (s.blockAt pos bs).info ∧ s.segmented.seg.blkCrc[i] = (s.blockAt pos bs).crc ∧
      pos + bs + 2 ≤ s.len := by
  obtain ⟨hblock, -, hfits⟩ := segmentation_block (List.getElem?_eq_getElem hi)
  rw [declaredSize_eq_declared] at hblock hfits
  obtain ⟨hinfo, hcrc⟩ := segRegs_entry_found s _ hi
  rw [hblock] at hinfo hcrc
  exact ⟨hinfo, hcrc, hfits⟩

theorem segmented_entry_absent {s : State} {i : Fin 16} (hi : s.found ≤ i.val) :
    s.segmented.seg.blkInfo[i] = .zero ∧ s.segmented.seg.blkCrc[i] = .zero := segRegs_entry_absent s _ hi

/-- The fields of a block's BLK_INFO (10_state R47). -/
theorem blockAt_info (s : State) {pos bs : Nat} (hpos : pos < 2 ^ 9) (hbs : bs < 2 ^ 5) :
    (s.blockAt pos bs).info.off.toNat = pos ∧ (s.blockAt pos bs).info.size.toNat = bs :=
  ⟨Nat.mod_eq_of_lt hpos, by
    change (BitVec.ofNat 5 (s.blockAt pos bs).bytes.length).toNat = bs
    rw [blockAt_bytes_length, BitVec.toNat_ofNat, Nat.mod_eq_of_lt hbs]⟩

/-- The fields of a block's BLK_CRC (10_state R48). -/
theorem blockAt_crc (s : State) (pos bs : Nat) :
    (s.blockAt pos bs).crc.calculated = s.crc16 (Claims.frameBytes s pos bs) ∧
    (s.blockAt pos bs).crc.stored.toNat =
      Claims.storedNumber s.ctrl.crcord (s.fb (pos + bs)) (s.fb (pos + bs + 1)) :=
  ⟨congrArg s.crc16 (frameBytes_eq s pos bs), stored16_toNat ..⟩

/-- BLK_OK bit i is the OK flag of entry i (10_state R43). -/
theorem segRegs_blkOk_eq_ok (s : State) (g : Segmentation) (i : Fin 16) :
    (s.segRegs g).blkOk.getLsbD i.val = ((s.segRegs g).blkInfo[i]).ok := by
  rw [segRegs_blkOk_bit]
  simp only [State.segRegs, blockTable_get]
  cases g.blocks[i.val]? with
  | none => rfl
  | some b => rfl

/-- ALL_OK read from the table: nothing truncated and every entry of a block found is OK (10_state R43). -/
theorem segmented_allOk_iff (s : State) :
    s.segmented.seg.allOk = true ↔
      s.segmented.seg.trunc = false ∧ ∀ i : Fin 16, i.val < s.found → (s.segmented.seg.blkInfo[i]).ok = true := by
  refine (segRegs_allOk_iff s _).trans (and_congr_right fun _ => ⟨fun hall i hi => ?_, fun hall b hb => ?_⟩)
  · obtain ⟨hinfo, -⟩ := segRegs_entry_found s s.segmentation hi
    exact (congrArg BlkInfo.ok hinfo).trans (hall _ (List.getElem_mem hi))
  · obtain ⟨i, hi, rfl⟩ := List.mem_iff_getElem.1 hb
    have hi16 : i < 16 := Nat.lt_of_lt_of_le hi (found_le s)
    obtain ⟨hinfo, -⟩ := segRegs_entry_found s s.segmentation (i := ⟨i, hi16⟩) hi
    exact (congrArg BlkInfo.ok hinfo).symm.trans (hall ⟨i, hi16⟩ hi)

/-- The SIZE field of every entry: that of its block, 0 where there is none (10_state R47). -/
theorem segmented_size (s : State) (i : Fin 16) :
    (s.segmented.seg.blkInfo[i]).size.toNat =
      if i.val < s.found then Claims.blockSize (Claims.declared s) i.val else 0 := by
  split
  · next hi =>
    have hbs : Claims.blockSize (Claims.declared s) i.val < 2 ^ 5 := by unfold Claims.blockSize; omega
    rw [(segmented_entry_found hi).1, (blockAt_info s (by omega) hbs).2]
  · next hi =>
    rw [(segmented_entry_absent (Nat.le_of_not_lt hi)).1]
    rfl

/-- The sizes of the first m of n blocks of N declared bytes add up to what those blocks can hold. -/
theorem sum_blockSizes (N n m : Nat) :
    ((List.range m).map fun i => if i < n then Claims.blockSize N i else 0).sum = min N (16 * min n m) := by
  induction m with
  | zero => simp
  | succ m ih =>
    rw [List.range_succ, List.map_append, List.sum_append, ih, List.map_singleton, List.sum_singleton]
    unfold Claims.blockSize
    split <;> omega

theorem segmented_sizeSum (s : State) :
    Claims.sizeSum s.segmented.seg = min (Claims.declared s) (16 * s.found) := by
  have hsum := sum_blockSizes (Claims.declared s) s.found 16
  rw [Nat.min_eq_left (found_le s), ← List.map_coe_finRange_eq_range, List.map_map] at hsum
  rw [Claims.sizeSum, ← hsum]
  exact congrArg List.sum (List.map_congr_left fun i _ => segmented_size s i)

/-- SEGMENT leaves the telegram and the configuration. -/
theorem sameTelegram_segmented (s : State) : SameTelegram s s.segmented := by
  refine ⟨?_, ?_, ?_, ?_, ?_, fun k _ hk => ?fb⟩
  case fb => rw [State.fb, State.fb, segmented_readByte, if_neg (by omega)]
  all_goals simp [State.segmented]

end Sys2Proof.Machine

namespace Sys2Proof.Proofs

open Sys2Proof Sys2Proof.Machine

/-- Settles O31: SEGMENT's effect is the update of the segmenter registers and of PAYLOAD_BUF. -/
theorem segmentWritesOnlyItsResults : Obligations.SegmentWritesOnlyItsResults := by
  intro s hlen
  refine ⟨s.segmented, exec_segment_full hlen, rfl, ?n, decide_eq_true_iff, fun a ha => ?_⟩
  case n =>
    calc (place (s.segRegs s.segmentation).n 0).toNat
        = (s.segRegs s.segmentation).n.toNat := by rw [place_toNat _ _ (by decide), Nat.pow_zero, Nat.mul_one]
      _ = Claims.declared s := (segRegs_n s _).trans (declaredSize_eq_declared s)
  · rw [segmented_readByte, if_neg ha]

/-- Settles O32: an entry is that of the block at its place or 0, and the words are put together from the fields. -/
theorem segmentFillsTheBlockTable : Obligations.SegmentFillsTheBlockTable := by
  intro s t hlen ht
  obtain rfl := eq_segmented hlen ht
  rw [segmented_nblk]
  refine ⟨found_le s, fun i hi => ?found, fun i hi => ?absent, segRegs_blkOk_eq_ok s _, segmented_allOk_iff s, ?stat⟩
  case found =>
    intro pos bs
    have hbs : bs < 2 ^ 5 := by simp only [bs, Claims.blockSize]; omega
    obtain ⟨hinfo, hcrc, hfits⟩ := segmented_entry_found hi
    obtain ⟨hoff, hsize⟩ := blockAt_info s (pos := pos) (by omega) hbs
    obtain ⟨hcalculated, hstored⟩ := blockAt_crc s pos bs
    have hword : (s.segmented.readReg (.blkInfo i)).toNat = _ := BlkInfo.word_toNat _
    rw [hinfo, hoff, hsize] at hword
    rw [hinfo, hcrc]
    exact ⟨hoff, hsize, rfl, hfits, hcalculated, hstored, CrcPair.ok_iff _, hword, hcrc ▸ halvesWord_toNat _ _⟩
  case absent =>
    obtain ⟨hinfo, hcrc⟩ := segmented_entry_absent hi
    simp only [State.readReg, hinfo, hcrc]
    exact ⟨rfl, rfl⟩
  case stat =>
    have hlshort : 2 ^ 9 * s.segmented.seg.lshort.toNat = if (s.fb 0).toNat < 9 then 2 ^ 9 else 0 := by
      change 2 ^ 9 * (decide ((s.fb 0).toNat < 9)).toNat = _
      split <;> simp [*]
    refine (SegRegs.statWord_toNat _).trans ?_
    rw [hlshort, segmented_nblk]

/-- Settles O33: the sizes found add up to min N (16 NBLK), and the last block found holds a declared byte; a second
segmentation reads the same telegram. -/
theorem segmentationProperties : Obligations.SegmentationProperties := by
  intro s t hlen ht
  obtain rfl := eq_segmented hlen ht
  rw [segmented_nblk, segmented_sizeSum, segmented_payLen, segmented_ciP_iff, segmented_endOff]
  have hlast := @declared_of_found s
  refine ⟨fun htrunc => Nat.min_eq_left (segmentation_complete htrunc), by omega, fun i hi => ?size, rfl, by omega, rfl,
    fun u hu => ?again⟩
  case size =>
    rw [segmented_size, if_pos hi, Claims.blockSize]
    split <;> omega
  case again =>
    have same := sameTelegram_segmented s
    rw [eq_segmented (s := s.segmented) hlen hu, segmented_seg, segmented_seg, same.segmentation hlen, same.segRegs hlen]

/-- Settles O34: TRUNC is the loop's stop at a block that does not fit, and END is inside the telegram. -/
theorem segmentStopsAtTheFirstBlockThatDoesNotFit : Obligations.SegmentStopsAtTheFirstBlockThatDoesNotFit := by
  intro s t hlen ht
  obtain rfl := eq_segmented hlen ht
  rw [segmented_nblk]
  refine ⟨segmentation_truncated, segmentation_complete, segmented_endOff s, ?tail, readReg_segTail_toNat _⟩
  have hend := segmentation_endOff_le hlen
  have htail : s.segmented.seg.tailLen.toNat = s.len - s.segmentation.endOff :=
    Nat.mod_eq_of_lt (Nat.lt_of_le_of_lt (Nat.sub_le ..) s.frameLen.isLt)
  rw [segmented_endOff, htail, ← segmentation_endOff]
  exact Nat.add_sub_cancel' hend

/-- Settles O35: byte k of PAYLOAD_BUF is data byte k + 1, and the first data byte stands at offset 12. -/
theorem segmentReassemblesThePayload : Obligations.SegmentReassemblesThePayload := by
  intro s t hlen ht
  obtain rfl := eq_segmented hlen ht
  refine ⟨fun k hk => ?payload, ?ci, readReg_segCi_toNat _⟩
  case payload =>
    rw [State.pb, segmented_readByte, if_pos ⟨by omega, by omega⟩, Nat.add_sub_cancel_left, Segmentation.payload,
      List.getElem?_drop, segmentation_dataBytes, segmented_payLen, Nat.add_comm 1 k]
    by_cases hdata : k < min (Claims.declared s) (16 * s.found) - 1
    · rw [if_pos hdata, if_pos (by omega)]; rfl
    · rw [if_neg hdata, if_neg (by omega)]; rfl
  case ci =>
    change s.segmentation.dataBytes.headD 0 = _
    rw [List.headD_eq_head?_getD, List.head?_eq_getElem?, segmentation_dataBytes]
    have hlast := @declared_of_found s
    by_cases hfound : 0 < s.found
    · rw [if_pos (by omega), if_pos ((segmented_ciP_iff s).2 hfound)]; rfl
    · rw [if_neg (by omega), if_neg (mt (segmented_ciP_iff s).1 hfound)]; rfl

end Sys2Proof.Proofs

namespace Sys2Proof.Machine

open Sys2Proof

/-! ### The reading registers in numbers -/

/-- A little-endian payload value as the number of its two bytes (43_frame R178). -/
theorem ofNat_payload16 (s : State) (o : Nat) :
    BitVec.ofNat 16 ((s.pb o).toNat + 2 ^ 8 * (s.pb (o + 1)).toNat) = s.payload16 o := by
  rw [← le16_toNat, BitVec.ofNat_toNat, BitVec.setWidth_eq]
  rfl

/-- Two payload values in one word, the first in the low half (10_state R50-R52). -/
theorem halvesWord_payload16_toNat (s : State) (o p : Nat) :
    (halvesWord (s.payload16 o) (s.payload16 p)).toNat =
      (s.pb o).toNat + 2 ^ 8 * (s.pb (o + 1)).toNat + 2 ^ 16 * ((s.pb p).toNat + 2 ^ 8 * (s.pb (p + 1)).toNat) := by
  rw [halvesWord_toNat, State.payload16, State.payload16, le16_toNat, le16_toNat]

/-- The number of RD_STAT's word (10_state R49). -/
theorem readReg_rdStat_toNat (s : State) :
    (s.readReg .rdStat).toNat = s.rd.valid.toNat + 2 ^ 8 * s.rd.status.toNat := by
  have h1 := s.rd.valid.toNat_lt
  simp only [State.readReg, BitVec.toNat_or]
  rw [placeBit_toNat _ _ (by decide), place_toNat _ _ (by decide), or_shifted _ _ 8 (by omega)]
  omega

/-- APP_DECODE of a payload of at least 13 bytes (43_frame R182). -/
theorem exec_appDecode_full {s : State} (h : 13 ≤ s.payLen) :
    exec .appDecode s = .next (((s.setRd s.parsedRd).setDateRef s.lastDate).complete .success) := by
  rw [exec_eq, effect, appStage_full h]

/-! ### The stages of a completed command -/

section
variable (s : State) (e : ErrCode)

theorem sameTelegram_complete : SameTelegram s (s.complete e) := ⟨rfl, rfl, rfl, rfl, rfl, fun _ _ _ => rfl⟩

/-- The segmentation stage neither reads nor writes the completion fields. -/
theorem segStage_complete : segStage (s.complete e) = ((segStage s).1, (segStage s).2.complete e) := by
  have same := sameTelegram_complete s e
  by_cases hlen : s.len < 24
  · rw [segStage_short hlen, segStage_short (s := s.complete e) hlen]
    rfl
  · have hle := Nat.le_of_not_lt hlen
    rw [segStage_full hle, segStage_full (s := s.complete e) hle, same.segmentation hle, same.segRegs hle]
    rfl

/-- The payload stage neither reads nor writes the completion fields. -/
theorem appStage_complete : appStage (s.complete e) = ((appStage s).1, (appStage s).2.complete e) := by
  by_cases hlen : s.payLen < 13
  · rw [appStage_short hlen, appStage_short (s := s.complete e) hlen]
    rfl
  · have hle := Nat.le_of_not_lt hlen
    rw [appStage_full hle, appStage_full (s := s.complete e) hle]
    rfl

theorem complete_complete (f : ErrCode) : (s.complete e).complete f = s.complete f := rfl

theorem done_complete (f : ErrCode) : Claims.done (s.complete e) f = s.complete f := rfl

/-- SEGMENT after a completed command is its stage on the state before that completion. -/
theorem exec_segment_complete : exec .segment (s.complete e) = .next ((segStage s).2.complete (segStage s).1) := by
  rw [exec_eq, effect, segStage_complete, complete_complete]

theorem exec_appDecode_complete : exec .appDecode (s.complete e) = .next ((appStage s).2.complete (appStage s).1) := by
  rw [exec_eq, effect, appStage_complete, complete_complete]

end

/-- FRAME_DECODE is its last stage's state, completed with the first code that is not NONE (43_frame R183). -/
theorem exec_frameDecode_eq (s : State) :
    exec .frameDecode s = .next ((appStage (segStage (hdrStage s).2).2).2.complete
      ((hdrStage s).1.orElse ((segStage (hdrStage s).2).1.orElse (appStage (segStage (hdrStage s).2).2).1))) :=
  exec_eq .frameDecode s

theorem ErrCode.orElse_eq_ite (e f : ErrCode) : e.orElse f = if e ≠ .success then e else f := by cases e <;> rfl

end Sys2Proof.Machine

namespace Sys2Proof.Proofs

open Sys2Proof Sys2Proof.Machine

/-- Settles O36: the fields are the payload's little-endian values, and the words are put together from them. -/
theorem appDecodeExtractsTheReading : Obligations.AppDecodeExtractsTheReading := by
  intro s hlen u
  have hu : ∀ o, BitVec.ofNat 16 (u o) = s.payload16 o := ofNat_payload16 s
  rw [hu, hu]
  refine ⟨_, exec_appDecode_full hlen, rfl, readReg_rdStat_toNat _, halvesWord_payload16_toNat s 1 3,
    halvesWord_payload16_toNat s 5 7, halvesWord_payload16_toNat s 9 11, rfl, rfl, DateRecord.word_toNat _,
    DateRecord.word_toNat _, DateRecord.word_toNat _, ?tail, fun _ => rfl⟩
  change (place (BitVec.ofNat 8 (s.payLen - 13)) 0).toNat = s.payLen - 13
  have hpay : s.payLen < 2 ^ 8 := s.seg.payLen.isLt
  rw [place_toNat _ _ (by decide), BitVec.toNat_ofNat, Nat.mod_eq_of_lt (by omega), Nat.pow_zero, Nat.mul_one]

/-- Settles O38: a completion between two stages changes only the completion fields, which no stage reads. -/
theorem frameDecodeIsTheThreeStages : Obligations.FrameDecodeIsTheThreeStages := by
  intro s
  refine ⟨_, _, _, _, exec_eq .hdrParse s, exec_segment_complete _ _, exec_appDecode_complete _ _,
    exec_frameDecode_eq s, ?_⟩
  rw [done_complete, ErrCode.orElse_eq_ite, ErrCode.orElse_eq_ite]
  rfl

end Sys2Proof.Proofs

namespace Sys2Proof.Proofs

open Sys2Proof Sys2Proof.Machine

/-- Settles O15: NOP has no effect of its own, and the completion writes no byte. -/
theorem nopOnlyCompletes : Obligations.NopOnlyCompletes := fun s =>
  ⟨_, exec_eq .nop s, rfl, readByte_complete s .success⟩

end Sys2Proof.Proofs

namespace Sys2Proof.Machine

open Sys2Proof

/-! ### The effects that raise an error -/

/-- CRC_BUF beyond FRAME_BUF has no effect but its code (60_exceptions R213). -/
theorem effect_crcBuf_exceeds {start : BitVec 9} {len : BitVec 10} (h : 512 < start.toNat + len.toNat) (s : State) :
    effect (.crcBuf start len) s = (.range, s) := by
  have hfits : ¬ rangeFits start len = true := by simpa [rangeFits] using h
  rw [effect, if_neg hfits]

theorem effect_crcBuf_code (start : BitVec 9) (len : BitVec 10) (s : State) :
    (effect (.crcBuf start len) s).1 = if 512 < start.toNat + len.toNat then .range else .success := by
  split
  · next h => rw [effect_crcBuf_exceeds h]
  · next h =>
    have hfits : rangeFits start len = true := decide_eq_true (Nat.le_of_not_lt h)
    rw [effect, if_pos hfits]

/-- What the header and segmentation stages make of a telegram of at least 24 bytes: the state FRAME_DECODE's payload stage
starts from (43_frame R183). -/
def State.staged (s : State) : State :=
  ((s.setHdr s.parsedHdr).setSeg (s.segRegs s.segmentation)).setMem (s.mem.withPayload s.segmentation.payload)

theorem sameTelegram_setHdr (s : State) (h : HdrRegs) : SameTelegram s (s.setHdr h) :=
  ⟨rfl, rfl, rfl, rfl, rfl, fun _ _ _ => rfl⟩

/-- From 24 bytes on FRAME_DECODE ends as its payload stage does: the two stages before it succeed (43_frame R183). -/
theorem effect_frameDecode_full {s : State} (h : 24 ≤ s.len) : effect .frameDecode s = appStage s.staged := by
  have same := sameTelegram_setHdr s s.parsedHdr
  have hseg : segStage (s.setHdr s.parsedHdr) = (.success, s.staged) := by
    rw [segStage_full (same.len.symm ▸ h), same.segmentation h, same.segRegs h]
    rfl
  rw [effect, hdrStage_full h, hseg]
  rfl

/-- Below 24 bytes FRAME_DECODE clears the results of all three stages: a cleared PAY_LEN is short too, and the header stage's
code comes first (60_exceptions R214, R220). -/
theorem effect_frameDecode_short {s : State} (h : s.len < 24) :
    effect .frameDecode s =
      (.frame, (((s.setHdr .zero).setSeg .zero).setMem s.mem.clearPayload).setRd .zero) := by
  have hpay : (((s.setHdr .zero).setSeg .zero).setMem s.mem.clearPayload).payLen < 13 := Nat.zero_lt_succ 12
  simp [effect, hdrStage_short h, segStage_short (s := s.setHdr .zero) h, appStage_short hpay, ErrCode.orElse]

theorem appStage_payload_iff (s : State) : (appStage s).1 = .payload ↔ s.payLen < 13 := by
  rw [appStage_code, ite_eq_left_iff]
  simp

theorem appStage_success_iff (s : State) : (appStage s).1 = .success ↔ 13 ≤ s.payLen := by
  rw [appStage_code, ite_eq_right_iff]
  simp

/-! ### Which errors a command raises -/

/-- `Raises s i e`: from `s`, command `i` may raise the error `e`. A constructor per cause (60_exceptions R213-R215). -/
inductive Raises (s : State) : Instr → ErrCode → Prop where
  | range {start : BitVec 9} {len : BitVec 10} (h : 512 < start.toNat + len.toNat) : Raises s (.crcBuf start len) .range
  | hdrParse (h : s.len < 24) : Raises s .hdrParse .frame
  | segment (h : s.len < 24) : Raises s .segment .frame
  | appDecode (h : s.payLen < 13) : Raises s .appDecode .payload
  | frameDecode (h : s.len < 24) : Raises s .frameDecode .frame
  | frameDecodePayload (hlen : 24 ≤ s.len) (h : s.staged.payLen < 13) : Raises s .frameDecode .payload

/-- A command that errs exactly under one condition errs for the cause that condition is. -/
theorem raises_of_code {i : Instr} {s : State} {e : ErrCode} {c : Prop} [Decidable c]
    (hcode : (effect i s).1 = if c then e else .success) (hcause : c → Raises s i e) (herr : (effect i s).1 ≠ .success) :
    Raises s i (effect i s).1 := by
  by_cases hc : c
  · rw [hcode, if_pos hc]
    exact hcause hc
  · exact absurd (hcode.trans (if_neg hc)) herr

/-- A command that does not succeed has one of the causes `Raises` lists. -/
theorem effect_raises {i : Instr} {s : State} (herr : (effect i s).1 ≠ .success) : Raises s i (effect i s).1 := by
  cases i with
  | crcBuf start len => exact raises_of_code (effect_crcBuf_code start len s) .range herr
  | hdrParse => exact raises_of_code (hdrStage_code s) .hdrParse herr
  | segment => exact raises_of_code (segStage_code s) .segment herr
  | appDecode => exact raises_of_code (appStage_code s) .appDecode herr
  | frameDecode =>
    by_cases hlen : s.len < 24
    · rw [effect_frameDecode_short hlen]
      exact .frameDecode hlen
    · have hfull := Nat.le_of_not_lt hlen
      have hcode := (congrArg Prod.fst (effect_frameDecode_full hfull)).trans (appStage_code _)
      exact raises_of_code hcode (.frameDecodePayload hfull) herr
  | _ => exact absurd rfl herr

/-- The cause of an error that a completed command left in STATUS.ERR. -/
theorem exec_raises {i : Instr} {s t : State} {e : ErrCode} (ht : exec i s = .next t) (he : t.status.err = e)
    (herr : e ≠ .success) : Raises s i e := by
  obtain rfl := exec_next ht
  subst he
  exact effect_raises herr

/-! ### What a checksum mismatch clears -/

theorem CrcPair.not_ok {c : CrcPair} (h : c.calculated ≠ c.stored) : c.ok = false :=
  Bool.eq_false_iff.2 (mt c.ok_iff.1 h)

/-- CRC_OK is the validity of the header's checksum (43_frame R171). -/
theorem headerFlagTells_parsedHdr (s : State) : Claims.headerFlagTells s.parsedHdr := CrcPair.not_ok

/-- OK and BLK_OK are the validity of a block's checksum, and ALL_OK needs every block found to be valid (10_state R43). -/
theorem blockFlagsTell_segRegs (s : State) : Claims.blockFlagsTell (s.segRegs s.segmentation) := by
  intro i hi hne
  rw [segRegs_nblk s _ (found_le s)] at hi
  obtain ⟨hinfo, hcrc⟩ := segRegs_entry_found s _ hi
  rw [hcrc] at hne
  have hbad := CrcPair.not_ok hne
  have hok : ((s.segRegs s.segmentation).blkInfo[i]).ok = false := (congrArg BlkInfo.ok hinfo).trans hbad
  refine ⟨hok, (segRegs_blkOk_eq_ok s _ i).trans hok, Bool.eq_false_iff.2 fun hall => ?_⟩
  have hgood := ((segRegs_allOk_iff s _).1 hall).2 _ (List.getElem_mem hi)
  exact Bool.false_ne_true (hbad.symm.trans hgood)

end Sys2Proof.Machine

namespace Sys2Proof.Proofs

open Sys2Proof Sys2Proof.Machine

/-- Settles O19: the range check comes before ACC is written, and no other cause has the code RANGE. -/
theorem rangeIsRaisedOnlyByCrcBuf : Obligations.RangeIsRaisedOnlyByCrcBuf := by
  refine ⟨fun start len s h => ?raised, fun i s t ht he => ?only⟩
  case raised =>
    rw [exec_eq, effect_crcBuf_exceeds h]
    rfl
  case only =>
    cases exec_raises ht he (by decide) with
    | range h => exact ⟨_, _, rfl, h⟩

/-- Settles O30: each stage clears its registers before it raises, and the causes with the code FRAME are these three. -/
theorem shortFramesRaiseFrame : Obligations.ShortFramesRaiseFrame := by
  refine ⟨fun s h => ⟨?hdrParse, ?segment, ?frameDecode⟩, fun i s t ht he => ?only⟩
  case hdrParse =>
    rw [exec_eq, effect, hdrStage_short h]
    rfl
  case segment =>
    rw [exec_eq, effect, segStage_short h]
    exact ⟨_, rfl, rfl, readByte_clearPayload (s.setSeg .zero)⟩
  case frameDecode =>
    rw [exec_eq, effect_frameDecode_short h]
    exact ⟨_, rfl, rfl, readByte_clearPayload ((s.setHdr .zero).setSeg .zero)⟩
  case only =>
    cases exec_raises ht he (by decide) with
    | hdrParse h => exact ⟨h, .inl rfl⟩
    | segment h => exact ⟨h, .inr (.inl rfl)⟩
    | frameDecode h => exact ⟨h, .inr (.inr rfl)⟩

/-- Settles O37: the payload stage clears the reading registers alone, and PAY_LEN stays the short one it found. -/
theorem shortPayloadsRaisePayload : Obligations.ShortPayloadsRaisePayload := by
  refine ⟨fun s hpay => ?appDecode, fun s h g t hlen hh hg hpay ht => ?frameDecode, fun i s t ht he => ?only⟩
  case appDecode =>
    rw [exec_eq, effect, appStage_short hpay]
    rfl
  case frameDecode =>
    obtain rfl := Host.Outcome.next.inj ((exec_hdrParse_full hlen).symm.trans hh)
    obtain rfl := eq_segmented hlen hg
    rw [exec_next ht, effect_frameDecode_full hlen, appStage_short (s := s.staged) hpay]
    rfl
  case only =>
    cases exec_raises ht he (by decide) with
    | appDecode h =>
      rw [exec_next ht, effect, appStage_short h]
      exact ⟨.inl rfl, h⟩
    | frameDecodePayload hlen h =>
      rw [exec_next ht, effect_frameDecode_full hlen, appStage_short h]
      exact ⟨.inr rfl, h⟩

/-- Settles O41: the flags are the checksums' validity, and from 24 bytes on only the payload stage's code is left. -/
theorem checksumMismatchIsOnlyAFlag : Obligations.ChecksumMismatchIsOnlyAFlag := by
  refine fun s t hlen => ⟨fun ht => ?hdrParse, fun ht => ?segment, fun ht => ?frameDecode⟩
  case hdrParse =>
    obtain rfl := Host.Outcome.next.inj ((exec_hdrParse_full hlen).symm.trans ht)
    exact ⟨rfl, headerFlagTells_parsedHdr s⟩
  case segment =>
    obtain rfl := eq_segmented hlen ht
    exact ⟨rfl, blockFlagsTell_segRegs s⟩
  case frameDecode =>
    rw [exec_next ht, effect_frameDecode_full hlen, State.complete_hdr, State.complete_seg, appStage_hdr, appStage_seg]
    exact ⟨headerFlagTells_parsedHdr s, blockFlagsTell_segRegs s, appStage_success_iff _, appStage_payload_iff _⟩

end Sys2Proof.Proofs

namespace Sys2Proof.Machine

open Sys2Proof

/-! ### The Engine's step always completes -/

/-- Nothing stops the Engine: every word and every command has a next state (60_exceptions R212). -/
theorem engineStep_isNext (s : State) : ∃ t, engineStep s = .next t := by
  rcases engineStep_cases s with ⟨i, -, he⟩ | ⟨e, -, he⟩
  · exact ⟨_, he.trans (exec_eq i s)⟩
  · exact ⟨_, he⟩

/-- No code above 4 is written (60_exceptions R210). -/
theorem ErrCode.code_le (e : ErrCode) : e.code.toNat ≤ 4 := by cases e <;> decide

theorem engineStep_of_decode {s : State} {i : Instr} (h : decode s.latch = .ok i) : engineStep s = exec i s := by
  rw [engineStep, h]

/-! ### The step while a command is busy -/

/-- What passes while BUSY = 1 is a 4-byte STATUS read or a reset (70 R247, R240). -/
theorem Input.passesBusy_iff (i : Input) : i.passesBusy = true ↔ i = rd32 0x004 ∨ i = .reset := by
  cases i with
  | reset => simp [Input.passesBusy]
  | access a =>
    cases a with
    | read off size => simp [Input.passesBusy, rd32]
    | write off size data => simp [Input.passesBusy, rd32]

/-- Where the open order puts the Engine first, the step while busy is the Engine's whatever is pending. -/
theorem step_busy_engineFirst {s : State} (hb : s.busy = true) (hfirst : Config.engineFirst s = true) :
    step s = engineStep s := by
  cases hi : s.inputs with
  | nil => exact step_busy_held hb (by simp [hi])
  | cons i rest =>
    cases hpass : i.passesBusy
    · exact step_busy_held hb (by simp [hi, hpass])
    · rw [step_busy_passing hb hi hpass, if_pos hfirst]

/-- Where the open order does not put the Engine first, an input that may pass is performed, busy or not. -/
theorem step_passing_performed {s : State} {i : Input} {rest : List Input} (hi : s.inputs = i :: rest)
    (hpass : i.passesBusy = true) (h : s.busy = false ∨ Config.engineFirst s = false) :
    step s = .next (s.takeInput i) := by
  cases hb : s.busy
  · exact step_idle_input hb hi
  · have hfirst : Config.engineFirst s = false := h.resolve_left (by simp [hb])
    rw [step_busy_passing hb hi hpass, hfirst]
    rfl

/-- A busy SMCORE either takes the Engine's step or performs an input that may pass (70 R247). -/
theorem step_busy_cases {s : State} (hb : s.busy = true) :
    step s = engineStep s ∨
    ∃ i rest, s.inputs = i :: rest ∧ i.passesBusy = true ∧ step s = .next (s.takeInput i) := by
  cases hfirst : Config.engineFirst s
  · cases hi : s.inputs with
    | nil => exact .inl (step_busy_held hb (by simp [hi]))
    | cons i rest =>
      cases hpass : i.passesBusy
      · exact .inl (step_busy_held hb (by simp [hi, hpass]))
      · exact .inr ⟨i, rest, rfl, hpass, step_passing_performed hi hpass (.inr hfirst)⟩
  · exact .inl (step_busy_engineFirst hb hfirst)

/-- The Engine's step is the last of a busy command. -/
theorem run_one_of_engine {s : State} (h : step s = engineStep s) :
    ∃ t, Claims.run 1 s = .next t ∧ t.busy = false := by
  obtain ⟨t, ht⟩ := engineStep_isNext s
  exact ⟨t, run_succ (h.trans ht) 0, (engineStep_port ht).1⟩

/-- The end of BUSY: each step either is the last of the command or uses up a pending input. -/
theorem run_busy_ends {s : State} {inputs : List Input} (hb : s.busy = true) (hin : s.inputs = inputs) :
    ∃ k t, k ≤ inputs.length + 1 ∧ Claims.run k s = .next t ∧ t.busy = false := by
  induction inputs generalizing s with
  | nil => exact ⟨1, (run_one_of_engine (step_busy_held hb (by simp [hin]))).imp fun _ => .intro le_rfl⟩
  | cons j js ih =>
    rcases step_busy_cases hb with hengine | ⟨i, rest, hi, hpass, hstep⟩
    · exact ⟨1, (run_one_of_engine hengine).imp fun _ => .intro (Nat.le_add_left 1 _)⟩
    · obtain ⟨rfl, rfl⟩ : j = i ∧ js = rest := List.cons.inj (hin.symm.trans hi)
      rcases j.passesBusy_iff.1 hpass with rfl | rfl
      · rw [takeInput_poll hi] at hstep
        obtain ⟨k, t, hk, hrun, ht⟩ := ih (s := s.polled js) hb rfl
        exact ⟨k + 1, t, Nat.succ_le_succ hk, (run_succ hstep k).trans hrun, ht⟩
      · exact ⟨1, _, Nat.le_add_left 1 _, run_succ hstep 0, rfl⟩

/-- The number of STATUS's word (10_state R25). -/
theorem statusWord_toNat (s : State) :
    s.statusWord.toNat =
      s.busy.toNat + 2 * s.status.done.toNat + 2 ^ 4 * s.status.err.code.toNat + 2 ^ 8 * s.status.lastop.toNat := by
  have hbusy := s.busy.toNat_lt
  have hdone := s.status.done.toNat_lt
  have hcode := s.status.err.code.isLt
  simp only [State.statusWord, BitVec.toNat_or]
  rw [placeBit_toNat _ _ (by decide), placeBit_toNat _ _ (by decide), place_toNat _ _ (by decide),
    place_toNat _ _ (by decide), or_shifted _ _ 1 (by omega), or_shifted _ _ 4 (by omega), or_shifted _ _ 8 (by omega)]
  omega

/-- The answer of a poll is STATUS's word. -/
theorem readAnswer_status (s : State) : s.readAnswer 0x004 .word = .data s.statusWord := readAnswer_reg s .status

/-! ### The reset state -/

/-- FRAME_BUF holds its draws where nothing has been written since reset (10_state R56). -/
theorem fb_of_no_cells {s : State} (hm : s.mem = []) {k : Nat} (hk : k < 512) :
    s.fb k = Config.frameDraw s.drawEpoch k := by
  have hout : ¬ inPayloadBuf (0x400 + k) := by omega
  rw [State.fb, readByte_eq, hm, Memory.unlisted, if_neg hout, Nat.add_sub_cancel_left]
  rfl

/-- Every register reads its reset value (10_state R22). -/
theorem reset_readReg (r : Reg) : State.reset.readReg r = Claims.resetWord r := by
  cases r with
  | blkInfo i | blkCrc i => revert i; decide
  | _ => rfl

theorem platformReset_readReg (s : State) (r : Reg) : s.platformReset.readReg r = Claims.resetWord r := by
  rw [← reset_readReg]
  cases r <;> rfl

/-- The reset state meets the invariant as any performed reset does: the two differ in their draws, which PAYLOAD_BUF does not
read. -/
theorem reset_inv : State.reset.Inv :=
  { platformReset_inv State.reset with payload_tail := fun _ _ hi => pb_of_no_cells rfl hi }

end Sys2Proof.Machine

namespace Sys2Proof.Proofs

open Sys2Proof Sys2Proof.Machine

/-- Settles O9: every next state of the Engine has the completion fields and the frame of its step. -/
theorem everyEngineStepCompletes : Obligations.EveryEngineStepCompletes := by
  intro s
  obtain ⟨t, ht⟩ := engineStep_isNext s
  refine ⟨t, ht, ?_, ?_, t.status.err.code_le, ?_, ?_, ?_⟩
  all_goals rw [engineStep_frame ht]

/-- Settles O10: only the excluded read passes, and the Engine's step takes no input and gives no answer. -/
theorem busyHoldsEveryOtherAccess : Obligations.BusyHoldsEveryOtherAccess := by
  intro s a rest hb hi ha
  obtain ⟨t, ht⟩ := engineStep_isNext s
  obtain ⟨hbusy, hinputs, hanswers⟩ := engineStep_port ht
  have hheld : (Input.access a).passesBusy = false := by
    rw [← Bool.not_eq_true, Input.passesBusy_iff]
    rintro (h | h)
    · exact ha (Input.access.inj h)
    · cases h
  exact ⟨t, (step_busy_held hb (by simp [hi, hheld])).trans ht, ht, hbusy, hinputs.trans hi, hanswers⟩

/-- Settles O11, by induction on the pending inputs. -/
theorem busyCommandEndsWithinPendingInputs : Obligations.BusyCommandEndsWithinPendingInputs :=
  fun _ hb => run_busy_ends hb rfl

/-- Settles O14: the poll is answered with STATUS's word, whose fields the premises give. -/
theorem statusReadWhileBusy : Obligations.StatusReadWhileBusy := by
  intro s rest hb hdone hlastop hlatch hi
  split
  · next hfirst => exact step_busy_engineFirst hb hfirst
  · next hfirst =>
    refine ⟨s.statusWord, ?_, ?_⟩
    · rw [step_passing_performed hi rfl (.inr (Bool.not_eq_true _ ▸ hfirst)), ← readAnswer_status]
      exact congrArg _ (takeInput_poll hi)
    · have hop : s.status.lastop.toNat = Claims.bitsOf s.latch.toNat 0 8 := by
        rw [hlastop, hlatch, bitsOf_toNat, BitVec.setWidth_eq_extractLsb' (by decide)]
      rw [statusWord_toNat, hb, hdone, hop]
      simp

/-- Settles O8: the step is the Engine's, which executes the decoded command. -/
theorem stepRunsTheDecodedCommand : Obligations.StepRunsTheDecodedCommand := by
  intro s i hb hdecode hfirst
  rw [← engineStep_of_decode hdecode]
  rcases hfirst with hi | ⟨j, rest, hi, hheld | hfirst⟩
  · exact step_busy_held hb (by simp [hi])
  · exact step_busy_held hb (by simp [hi, hheld])
  · exact step_busy_engineFirst hb hfirst

/-- Settles O13: the write reaches CMD, which issues the word. -/
theorem cmdWriteIssuesTheCommand : Obligations.CmdWriteIssuesTheCommand := by
  intro s w rest hb hi
  refine ⟨_, step_idle_writeReg (r := .cmd) hb hi, ?_, rfl⟩
  rw [BitVec.ofNat_toNat]
  rfl

/-- Settles O55: each register's reset word, and PAYLOAD_BUF without a cell. -/
theorem resetLeavesTheResetState : Obligations.ResetLeavesTheResetState :=
  ⟨reset_readReg, fun _ hk => pb_of_no_cells rfl hk, rfl, rfl, rfl⟩

/-- Settles O56: a reset passes while BUSY = 1, and its performance leaves the reset values with new draws. -/
theorem platformResetAbandonsTheCommand : Obligations.PlatformResetAbandonsTheCommand := by
  intro s rest hi h
  refine ⟨_, step_passing_performed hi rfl h, platformReset_readReg _, fun _ hk => pb_of_no_cells rfl hk,
    fun _ hk => fb_of_no_cells rfl hk, rfl, rfl, ?_⟩
  exact congrArg List.tail hi

/-- Settles O57: the reset state meets the invariant as a performed reset does. -/
theorem resetMeetsTheInvariant : Obligations.ResetMeetsTheInvariant := reset_inv

end Sys2Proof.Proofs
